-- ==== Sys2Proof/Word.lean ====
section
/-! DEFINITION. The words of the block: the sizes of the ports and of a data item (spec 00_scope.md R5, R7).
All values are unsigned bit vectors; nothing is ever sign-extended (R7, R90). -/

namespace Sys2Proof

/-- One 8-bit data item or character code (R5, R100). -/
abbrev Byte := BitVec 8

/-- A 32-bit value: a command's `arg`, and the storage of `REG`, `POLY`, `INIT`, `XOROUT`, `RPOLY` (R5, R40). -/
abbrev Word := BitVec 32

/-- A command word, 40 bits (R40). -/
abbrev CmdWord := BitVec 40

/-- The `data` field of a response, 64 bits (R41). -/
abbrev RspData := BitVec 64

/-- A whole response word, 76 bits (R41). -/
abbrev RspWord := BitVec 76

/-- A text: a sequence of 8-bit character codes, leftmost first (R7, R100). -/
abbrev Text := List Byte

end Sys2Proof
end

