-- ==== Sys2Proof/Config.lean ====
section
/-! DEFINITION. The parameters of the block (spec 00_scope.md R5): the three supported widths, and the types of the
one OPEN parameter `TABLE` (44_host_procedures.md R121), which every host procedure takes as an argument. The spec
leaves no result of any command open, so there is no free value here. -/

namespace Sys2Proof

/-- The supported CRC widths `W` in {8, 16, 32}, which are also the reflector widths and, in bytes, the sizes 1, 2, 4
of `formatHex` (R5; log entry 7). -/
inductive Width where
  | w8
  | w16
  | w32
deriving DecidableEq, Repr

/-- The six error kinds (60_exceptions.md R140). -/
inductive ErrorKind where
  /-- Invalid character or incomplete byte in a hex text (R141). -/
  | malformedHexInput
  /-- No row with the requested name and width; raised by the host only (R142). -/
  | unknownAlgorithm
  /-- The row violates the width invariant (R143). -/
  | invalidSpec
  /-- A well-formed row with `refIn` different from `refOut` (R144). -/
  | unsupportedSpec
  /-- A command out of sequence (R145). -/
  | sequenceError
  /-- A word that is no command (R146). -/
  | illegalCommand
deriving DecidableEq, Repr

/-- A loaded AlgorithmSpec without its name (R9, R12). `refOut` is not kept: it equals `refIn` in every loaded spec
(40_spec_load.md R61). -/
structure Spec where
  w      : Width
  poly   : Word
  init   : Word
  refIn  : Bool
  xorOut : Word
deriving DecidableEq, Repr

/-- One row as supplied from outside, unchecked: `{name, width, poly, init, refIn, refOut, xorOut}` (R9, R121). The
numbers are unbounded, so that a row that does not fit can be written down and refused (log entry 9). -/
structure Row where
  name   : Text
  width  : Nat
  poly   : Nat
  init   : Nat
  refIn  : Bool
  refOut : Bool
  xorOut : Nat
deriving DecidableEq, Repr

/-- The Algorithm Parameter Table: an ordered list of rows (R121). Supplied rows enter it through `formTable`, which keeps a
rejected row out (R122). -/
abbrev Table := List Row

end Sys2Proof
end

