-- ==== Sys2Proof/Syntax.lean ====
section
/-! DEFINITION. The commands (spec 30_encoding.md R42) as syntax: one constructor of `Instr` per row of
spec/opcode_table.json, each operand at the exact width R43 gives it. Beside them the mnemonics, the two fields of a
command word before it is judged (R40), the assembler line (R49) and the reasons a word is no command (R47). -/

namespace Sys2Proof

/-- The nineteen commands. -/
inductive Instr where
  /-- `ROWCTL`: stage width and reflection flags (R44, R62). -/
  | rowctl (width : Byte) (refIn refOut : Bool)
  /-- `ROWPOLY`: stage the polynomial (R63). -/
  | rowpoly (poly : Word)
  /-- `ROWINIT`: stage the initial value (R64). -/
  | rowinit (init : Word)
  /-- `ROWXOR`: stage the final XOR mask (R65). -/
  | rowxor (xorOut : Word)
  /-- `LDSPEC`: validate the staged row and make it the active spec (R66). -/
  | ldspec
  /-- `START`: open a computation (R85). -/
  | start
  /-- `BYTE`: absorb one byte (R86). -/
  | byte (b : Byte)
  /-- `FINAL`: close the computation and answer the checksum (R87). -/
  | final
  /-- `REFL8` (R72). -/
  | refl8 (value : BitVec 8)
  /-- `REFL16` (R73). -/
  | refl16 (value : BitVec 16)
  /-- `REFL32` (R74). -/
  | refl32 (value : BitVec 32)
  /-- `HEXCH`: feed one character (R101). -/
  | hexch (c : Byte)
  /-- `HEXEND`: end the text (R102). -/
  | hexend
  /-- `FMT1.BE` (R106). -/
  | fmt1be (value : BitVec 8)
  /-- `FMT1.LE` (R107). -/
  | fmt1le (value : BitVec 8)
  /-- `FMT2.BE` (R108). -/
  | fmt2be (value : BitVec 16)
  /-- `FMT2.LE` (R109). -/
  | fmt2le (value : BitVec 16)
  /-- `FMT4.BE` (R110). -/
  | fmt4be (value : BitVec 32)
  /-- `FMT4.LE` (R111). -/
  | fmt4le (value : BitVec 32)
deriving DecidableEq, Repr

/-- The nineteen mnemonics of R42. -/
inductive Mnemonic where
  | rowctl | rowpoly | rowinit | rowxor | ldspec
  | start | byte | final
  | refl8 | refl16 | refl32
  | hexch | hexend
  | fmt1be | fmt1le | fmt2be | fmt2le | fmt4be | fmt4le
deriving DecidableEq, Repr

/-- The mnemonic a command is written with. -/
def Instr.mnemonic : Instr → Mnemonic
  | .rowctl _ _ _ => .rowctl
  | .rowpoly _ => .rowpoly
  | .rowinit _ => .rowinit
  | .rowxor _ => .rowxor
  | .ldspec => .ldspec
  | .start => .start
  | .byte _ => .byte
  | .final => .final
  | .refl8 _ => .refl8
  | .refl16 _ => .refl16
  | .refl32 _ => .refl32
  | .hexch _ => .hexch
  | .hexend => .hexend
  | .fmt1be _ => .fmt1be
  | .fmt1le _ => .fmt1le
  | .fmt2be _ => .fmt2be
  | .fmt2le _ => .fmt2le
  | .fmt4be _ => .fmt4be
  | .fmt4le _ => .fmt4le

/-- The two fields of a command word, not yet judged: `op = cmd[39:32]`, `arg = cmd[31:0]` (R40). -/
structure Cmd where
  op  : BitVec 8
  arg : Word
deriving DecidableEq, Repr

/-- One line of the assembler syntax: a mnemonic and, for a command that uses `arg` bits, a number (R49). -/
structure AsmLine where
  mnemonic : Mnemonic
  operand  : Option Nat
deriving DecidableEq, Repr

/-- Why a word is no command (R47, in the order R147 item 1 gives). Both are answered `IllegalCommand`. -/
inductive Reject where
  /-- `op` is none of the nineteen opcodes. -/
  | unknownOpcode
  /-- a known opcode with a reserved `arg` bit set. -/
  | reservedArgBits
deriving DecidableEq, Repr

end Sys2Proof
end

