-- ==== Sys2Proof/WellFormed.lean ====
section
/-! DEFINITION. What is checked about a command before it means anything. Two levels: the fields of a raw word
(spec 30_encoding.md R47: a known opcode, and no reserved `arg` bit), and a line of the assembler (R49: an operand
exactly where the command uses `arg` bits, and one that fits them). A term of `Instr` carries its operands at their
exact widths, so every `Instr` is well-formed; Laws/Encoding.lean proves that its assembler line passes the checks. -/

namespace Sys2Proof

/-- How many low bits of `arg` the command uses (the "used `arg` bits" column of R42). -/
def Mnemonic.usedBits : Mnemonic → Nat
  | .rowctl => 10
  | .rowpoly | .rowinit | .rowxor | .refl32 | .fmt4be | .fmt4le => 32
  | .ldspec | .start | .final | .hexend => 0
  | .byte | .refl8 | .hexch | .fmt1be | .fmt1le => 8
  | .refl16 | .fmt2be | .fmt2le => 16

/-- The nineteen opcodes with the number of `arg` bits each uses (R42), as the list a reader checks a raw word
against. -/
def opcodeUse : List (BitVec 8 × Nat) :=
  [(0x10, 10), (0x11, 32), (0x12, 32), (0x13, 32), (0x14, 0),
   (0x20, 0), (0x21, 8), (0x22, 0),
   (0x30, 8), (0x31, 16), (0x32, 32),
   (0x40, 8), (0x41, 0),
   (0x50, 8), (0x51, 8), (0x52, 16), (0x53, 16), (0x54, 32), (0x55, 32)]

/-- The first check of R47: the opcode is one of the nineteen. -/
def Cmd.opcodeKnown (c : Cmd) : Bool :=
  opcodeUse.any fun p => p.1 == c.op

/-- The second check of R47: every `arg` bit the command does not use is zero. -/
def Cmd.reservedZero (c : Cmd) : Bool :=
  opcodeUse.all fun p => p.1 != c.op || c.arg.toNat < 2 ^ p.2

/-- A legal command word (R47). -/
def Cmd.wellFormed (c : Cmd) : Bool :=
  c.opcodeKnown && c.reservedZero

/-- The first check of R49: the line has an operand exactly when the command uses `arg` bits. -/
def AsmLine.operandPresence (l : AsmLine) : Bool :=
  l.operand.isSome == (l.mnemonic.usedBits != 0)

/-- The second check of R49: "The assembler rejects an operand that does not fit the used bits of its command". -/
def AsmLine.operandFits (l : AsmLine) : Bool :=
  match l.operand with
  | none => true
  | some v => v < 2 ^ l.mnemonic.usedBits

/-- A line the assembler accepts (R49). -/
def AsmLine.wellFormed (l : AsmLine) : Bool :=
  l.operandPresence && l.operandFits

end Sys2Proof
end

