-- ==== Sys2Proof/Decode.lean ====
section
/-! DEFINITION. Decoding and encoding (spec 30_encoding.md R40 to R48). `decode` is total on the 2^40 words and
rejects by name; it reads no state (R48). `encode` is written from the same tables. -/

namespace Sys2Proof

/-- `op = cmd[39:32]` (R40). -/
def opField (w : CmdWord) : BitVec 8 := w.extractLsb' 32 8

/-- `arg = cmd[31:0]` (R40). -/
def argField (w : CmdWord) : Word := w.extractLsb' 0 32

/-- The opcode of a mnemonic (R42). -/
def opcodeOf : Mnemonic → BitVec 8
  | .rowctl => 0x10
  | .rowpoly => 0x11
  | .rowinit => 0x12
  | .rowxor => 0x13
  | .ldspec => 0x14
  | .start => 0x20
  | .byte => 0x21
  | .final => 0x22
  | .refl8 => 0x30
  | .refl16 => 0x31
  | .refl32 => 0x32
  | .hexch => 0x40
  | .hexend => 0x41
  | .fmt1be => 0x50
  | .fmt1le => 0x51
  | .fmt2be => 0x52
  | .fmt2le => 0x53
  | .fmt4be => 0x54
  | .fmt4le => 0x55

/-- The mnemonic an opcode selects; every opcode outside R42 selects none. -/
def mnemonicOf (op : BitVec 8) : Option Mnemonic :=
  match op.toNat with
  | 0x10 => some .rowctl
  | 0x11 => some .rowpoly
  | 0x12 => some .rowinit
  | 0x13 => some .rowxor
  | 0x14 => some .ldspec
  | 0x20 => some .start
  | 0x21 => some .byte
  | 0x22 => some .final
  | 0x30 => some .refl8
  | 0x31 => some .refl16
  | 0x32 => some .refl32
  | 0x40 => some .hexch
  | 0x41 => some .hexend
  | 0x50 => some .fmt1be
  | 0x51 => some .fmt1le
  | 0x52 => some .fmt2be
  | 0x53 => some .fmt2le
  | 0x54 => some .fmt4be
  | 0x55 => some .fmt4le
  | _ => none

/-- The mask of the `arg` bits a command uses (the table of R43). -/
def usedMask : Mnemonic → Word
  | .rowctl => 0x000003FF
  | .rowpoly | .rowinit | .rowxor | .refl32 | .fmt4be | .fmt4le => 0xFFFFFFFF
  | .ldspec | .start | .final | .hexend => 0x00000000
  | .byte | .refl8 | .hexch | .fmt1be | .fmt1le => 0x000000FF
  | .refl16 | .fmt2be | .fmt2le => 0x0000FFFF

/-- The command with mnemonic `m` whose operand is taken from the low bits of `arg`, unsigned and unscaled (R43, R44). -/
def build (m : Mnemonic) (arg : Word) : Instr :=
  match m with
  | .rowctl => .rowctl (arg.extractLsb' 0 8) (arg.getLsbD 8) (arg.getLsbD 9)
  | .rowpoly => .rowpoly arg
  | .rowinit => .rowinit arg
  | .rowxor => .rowxor arg
  | .ldspec => .ldspec
  | .start => .start
  | .byte => .byte (arg.extractLsb' 0 8)
  | .final => .final
  | .refl8 => .refl8 (arg.extractLsb' 0 8)
  | .refl16 => .refl16 (arg.extractLsb' 0 16)
  | .refl32 => .refl32 arg
  | .hexch => .hexch (arg.extractLsb' 0 8)
  | .hexend => .hexend
  | .fmt1be => .fmt1be (arg.extractLsb' 0 8)
  | .fmt1le => .fmt1le (arg.extractLsb' 0 8)
  | .fmt2be => .fmt2be (arg.extractLsb' 0 16)
  | .fmt2le => .fmt2le (arg.extractLsb' 0 16)
  | .fmt4be => .fmt4be arg
  | .fmt4le => .fmt4le arg

/-- The decode procedure of R48: the opcode first, then the reserved `arg` bits. -/
def decode (w : CmdWord) : Except Reject Instr :=
  match mnemonicOf (opField w) with
  | none => .error .unknownOpcode
  | some m =>
    if argField w &&& ~~~ usedMask m = 0 then .ok (build m (argField w))
    else .error .reservedArgBits

/-- `ROWCTL`'s ten operand bits: width in [7:0], `refIn` in bit 8, `refOut` in bit 9 (R44). -/
def ctlBits (width : Byte) (refIn refOut : Bool) : BitVec 10 :=
  BitVec.ofBool refOut ++ (BitVec.ofBool refIn ++ width)

/-- The 32-bit `arg` of a command: its operand in the low bits, zeros above (R43). -/
def argOf : Instr → Word
  | .rowctl width refIn refOut => (ctlBits width refIn refOut).setWidth 32
  | .rowpoly v | .rowinit v | .rowxor v | .refl32 v | .fmt4be v | .fmt4le v => v
  | .ldspec | .start | .final | .hexend => 0
  | .byte v | .refl8 v | .hexch v | .fmt1be v | .fmt1le v => v.setWidth 32
  | .refl16 v | .fmt2be v | .fmt2le v => v.setWidth 32

/-- The command word of a command (R40). -/
def encode (i : Instr) : CmdWord :=
  opcodeOf i.mnemonic ++ argOf i

/-- The assembler (R49): the command a line stands for, if the line is well-formed. -/
def assemble (l : AsmLine) : Option Instr :=
  if l.wellFormed then some (build l.mnemonic (BitVec.ofNat 32 (l.operand.getD 0))) else none

/-- The assembler line of a command (R49). -/
def listing (i : Instr) : AsmLine :=
  { mnemonic := i.mnemonic
    operand := if i.mnemonic.usedBits = 0 then none else some (argOf i).toNat }

/-- The command decoded from an instruction whose bits are `w`, numbered as spec/opcode_table.json numbers them, of
which `nbits` are given and every higher bit is zero. The table's numbering is R40's: bit k of `w` is `cmd[k]`. -/
def decodeTableWord (nbits w : Nat) : Option Instr :=
  if w % 2 ^ nbits < 2 ^ 40 then
    match decode (BitVec.ofNat 40 (w % 2 ^ nbits)) with
    | .ok i => some i
    | .error _ => none
  else none

end Sys2Proof
end

