-- ==== Sys2Proof/Machine/State.lean ====
section
/-! DEFINITION. The state of the block (spec 10_state.md R10 to R23), the two ends of its ports, and the state right
after reset (R23, 70_reset_and_hazards.md R170). There is no program counter, register file or memory (R18, R19, R30). -/

namespace Sys2Proof.Machine

open Sys2Proof

/-- One response (30_encoding.md R41): status, number of valid 8-bit items, data. -/
structure Response where
  /-- status code, 0 is success (60_exceptions.md R140) -/
  st   : BitVec 8
  /-- number of valid 8-bit items in `data` -/
  n    : BitVec 4
  /-- the result: item `k` is `data[8k+7:8k]` (20_memory.md R39) -/
  data : RspData
deriving DecidableEq, Repr

/-- What can happen at the block's inputs (30_encoding.md R40, 70_reset_and_hazards.md R170, R171, R179). -/
inductive PortEvent where
  /-- the host presents one command word -/
  | command (w : CmdWord)
  /-- reset is asserted; a command that was presented and not yet answered is named, since it is lost (R171) -/
  | assertReset (inFlight : Option CmdWord)
  /-- reset is released (R170) -/
  | releaseReset
deriving DecidableEq, Repr

/-- The seventeen registers of R10, the level of the reset input, and the two ends of the ports. -/
structure State where
  /-- `ROW_CTRL`: staged width [7:0], `refIn` (bit 8), `refOut` (bit 9) (R16) -/
  rowCtrl : BitVec 10
  /-- `ROW_POLY`: staged polynomial (R16) -/
  rowPoly : Word
  /-- `ROW_INIT`: staged initial value (R16) -/
  rowInit : Word
  /-- `ROW_XOR`: staged final XOR mask (R16) -/
  rowXor : Word
  /-- `SPECV`: the active spec holds a loaded spec (R13) -/
  specv : Bool
  /-- `W`: active width (R12) -/
  w : Width
  /-- `POLY`: active polynomial (R12) -/
  poly : Word
  /-- `INIT`: active initial value (R12) -/
  init : Word
  /-- `XOROUT`: active final XOR mask (R12) -/
  xorOut : Word
  /-- `REFIN`: active input-reflection flag, selects the mode (R12) -/
  refIn : Bool
  /-- `REFOUT`: active output-reflection flag, written and never read (R12, R80) -/
  refOut : Bool
  /-- `RPOLY`: the reflected polynomial (R14) -/
  rpoly : Word
  /-- `REG`: the CRC shift register (R11) -/
  reg : Word
  /-- `RUN`: a computation is open (R15) -/
  run : Bool
  /-- `HNIB`: the pending high nibble (R17) -/
  hnib : BitVec 4
  /-- `HHALF`: a high nibble is pending (R17) -/
  hhalf : Bool
  /-- `HFAIL`: the open text has already failed (R17) -/
  hfail : Bool
  /-- the level of the reset input: true while reset is asserted (70_reset_and_hazards.md R170; log
  entry 4) -/
  inReset : Bool
  /-- the host's inputs still to come, the next first (DESIGN CHOICE, log entry 2) -/
  port : List PortEvent
  /-- the responses the host has received, oldest first (DESIGN CHOICE, log entry 3) -/
  responses : List Response
deriving DecidableEq, Repr

/-- Why a step stops with a fault. NO CONSTRUCTOR: nothing on this hardware stops the machine (30_encoding.md R47,
70_reset_and_hazards.md R179: "no command hangs, and the block is never stuck"; log entry 5). The spec's errors are responses. -/
inductive Fault where
deriving DecidableEq, Repr

/-- Why an instruction has no meaning. -/
inductive Refusal where
  /-- Raised by an arm of `exec` whose instruction has no meaning yet; safe. No arm is left that raises it. -/
  | notModelled (mnemonic : String)
deriving DecidableEq, Repr

/-- The state right after reset (R23, R170): the four flags and the four staging registers are 0, as the spec says.
The nine registers the spec leaves unspecified hold a named value: 0, and 8 for `W` (DESIGN CHOICE, log entry 1).
Nothing has been presented and nothing answered (log entries 2 and 3). -/
def State.reset : State where
  rowCtrl := 0
  rowPoly := 0
  rowInit := 0
  rowXor := 0
  specv := false
  w := .w8
  poly := 0
  init := 0
  xorOut := 0
  refIn := false
  refOut := false
  rpoly := 0
  reg := 0
  run := false
  hnib := 0
  hhalf := false
  hfail := false
  inReset := false
  port := []
  responses := []

end Sys2Proof.Machine
end

