-- ==== Sys2Proof/Machine/Ops.lean ====
section
/-! DEFINITION. The named operations over the registers and the ports. Every write of a register goes through one of
these; `raise` is the ONE way a command fails (spec 60_exceptions.md R148): there is nothing to save and nothing to
return to (R149). -/

namespace Sys2Proof.Machine

open Sys2Proof

/-- The numeric code of an error kind (60_exceptions.md R140). -/
def errorCode : ErrorKind → BitVec 8
  | .malformedHexInput => 1
  | .unknownAlgorithm => 2
  | .invalidSpec => 3
  | .unsupportedSpec => 4
  | .sequenceError => 5
  | .illegalCommand => 6

/-- The code of success (R140). -/
def okCode : BitVec 8 := 0

/-- The error kind a status code names; none for success and for the codes the block never produces (R140). -/
def errorOfCode (st : BitVec 8) : Option ErrorKind :=
  if st = 1 then some .malformedHexInput
  else if st = 2 then some .unknownAlgorithm
  else if st = 3 then some .invalidSpec
  else if st = 4 then some .unsupportedSpec
  else if st = 5 then some .sequenceError
  else if st = 6 then some .illegalCommand
  else none

/-- The 76-bit response word: `st = rsp[75:68]`, `n = rsp[67:64]`, `data = rsp[63:0]` (30_encoding.md R41). -/
def Response.word (r : Response) : RspWord := r.st ++ (r.n ++ r.data)

/-- `respond(st, n, data)`: drive the response word (00_scope.md R7). -/
def respond (st : BitVec 8) (n : BitVec 4) (data : RspData) (s : State) : State :=
  { s with responses := s.responses ++ [{ st := st, n := n, data := data }] }

/-- End the command with a successful response. -/
def answer (n : BitVec 4) (data : RspData) (s : State) : Host.Outcome State Fault Refusal :=
  .next (respond okCode n data s)

/-- `raise E`: end the command with `respond(code(E), 0, 0)` (00_scope.md R7, 60_exceptions.md R148). No register is
written here; the two commands that write a flag before they raise do so before calling it. -/
def raise (e : ErrorKind) (s : State) : Host.Outcome State Fault Refusal :=
  .next (respond (errorCode e) 0 0 s)

/-- Write `ROW_CTRL` (R16). -/
def State.stageCtl (v : BitVec 10) (s : State) : State := { s with rowCtrl := v }

/-- Write `ROW_POLY` (R16). -/
def State.stagePoly (v : Word) (s : State) : State := { s with rowPoly := v }

/-- Write `ROW_INIT` (R16). -/
def State.stageInit (v : Word) (s : State) : State := { s with rowInit := v }

/-- Write `ROW_XOR` (R16). -/
def State.stageXor (v : Word) (s : State) : State := { s with rowXor := v }

/-- Write the six registers of the active spec and `RPOLY` together, and set `SPECV` (R12, R13, R14). -/
def State.loadSpec (w : Width) (poly init xorOut : Word) (refIn refOut : Bool) (rpoly : Word) (s : State) : State :=
  { s with
    w := w
    poly := poly
    init := init
    xorOut := xorOut
    refIn := refIn
    refOut := refOut
    rpoly := rpoly
    specv := true }

/-- Write `REG` (R11). -/
def State.setReg (v : Word) (s : State) : State := { s with reg := v }

/-- Put every register at its value after reset (R23). The reset input, the inputs to come and the responses already
delivered are outside the block and stay. -/
def State.resetRegisters (s : State) : State :=
  { State.reset with
    inReset := s.inReset
    port := s.port
    responses := s.responses }

/-- Reset is asserted: the registers go to their reset values and no command is taken until release (R170). -/
def State.enterReset (s : State) : State :=
  { s.resetRegisters with inReset := true }

/-- Reset is released: the state is that of R23. Releasing an input that is not asserted does nothing. -/
def State.leaveReset (s : State) : State :=
  match s.inReset with
  | true => { s.resetRegisters with inReset := false }
  | false => s

/-- The active spec as a value (R12). -/
def State.activeSpec (s : State) : Spec :=
  { w := s.w, poly := s.poly, init := s.init, refIn := s.refIn, xorOut := s.xorOut }

end Sys2Proof.Machine
end

