-- ==== Sys2Proof/Machine/Flags.lean ====
section
/-! DEFINITION. The four flags `SPECV`, `RUN`, `HHALF`, `HFAIL` (spec 10_state.md R13, R15, R17): the operations that
write them and the sequencing gates that read them (60_exceptions.md R145, R147). There are no other flags: no carry,
zero, negative or overflow (R17). -/

namespace Sys2Proof.Machine

open Sys2Proof

/-- Open a computation (R15). -/
def State.openRun (s : State) : State := { s with run := true }

/-- Close the computation (R15). -/
def State.closeRun (s : State) : State := { s with run := false }

/-- Keep a high nibble: `HNIB <- d; HHALF <- 1` (R17, 43_hex_codec.md R101). -/
def State.keepNibble (d : BitVec 4) (s : State) : State := { s with hnib := d, hhalf := true }

/-- The pending nibble is used up: `HHALF <- 0` (R101). -/
def State.clearHalf (s : State) : State := { s with hhalf := false }

/-- The text has failed: `HFAIL <- 1` (R101). -/
def State.failText (s : State) : State := { s with hfail := true }

/-- The converter goes to its rest state: `HFAIL <- 0; HHALF <- 0` (R102). -/
def State.clearText (s : State) : State := { s with hfail := false, hhalf := false }

/-- The gate of `START`: with `SPECV = 0` it raises `SequenceError` (R13, R145). -/
def whenLoaded (s : State) (k : Host.Outcome State Fault Refusal) : Host.Outcome State Fault Refusal :=
  match s.specv with
  | true => k
  | false => raise .sequenceError s

/-- The gate of `BYTE` and `FINAL`: with `RUN = 0` they raise `SequenceError` (R15, R145). -/
def whenRunning (s : State) (k : Host.Outcome State Fault Refusal) : Host.Outcome State Fault Refusal :=
  match s.run with
  | true => k
  | false => raise .sequenceError s

/-- The gate of `LDSPEC`: with `RUN = 1` it raises `SequenceError` (R15, R145). -/
def whenIdle (s : State) (k : Host.Outcome State Fault Refusal) : Host.Outcome State Fault Refusal :=
  match s.run with
  | true => raise .sequenceError s
  | false => k

/-- The gate of `HEXCH`: in a text that has failed it raises `MalformedHexInput` (R17, R147). -/
def whenTextGood (s : State) (k : Host.Outcome State Fault Refusal) : Host.Outcome State Fault Refusal :=
  match s.hfail with
  | true => raise .malformedHexInput s
  | false => k

end Sys2Proof.Machine
end

