-- ==== Sys2Proof/Machine/Operands.lean ====
section
/-! DEFINITION. Operand and result forms: the widths as numbers, the fields of `ROW_CTRL` (spec 10_state.md R16), the
zero extensions of R7, the bytes of a value and the packing of items into response data (20_memory.md R39). -/

namespace Sys2Proof

/-- `W` as a number of bits (R5). -/
def Width.bits : Width → Nat
  | .w8 => 8
  | .w16 => 16
  | .w32 => 32

/-- `W/8`: a checksum's size in bytes, and the `widthBytes` of `formatHex` (42_engine.md R87, 44_host_procedures.md R125). -/
def Width.bytes : Width → Nat
  | .w8 => 1
  | .w16 => 2
  | .w32 => 4

/-- The width with the given number of bits; none for a number outside {8, 16, 32} (R60). -/
def widthOfBits (n : Nat) : Option Width :=
  if n = 8 then some .w8
  else if n = 16 then some .w16
  else if n = 32 then some .w32
  else none

end Sys2Proof

namespace Sys2Proof.Machine

open Sys2Proof

/-- `mask(W) = 2^W - 1`, as a 32-bit value (00_scope.md R7). -/
def mask (w : Width) : Word := BitVec.ofNat 32 (2 ^ w.bits - 1)

/-- `ROW_CTRL[7:0]`, the staged width as a plain number (R16). -/
def rowWidth (ctl : BitVec 10) : Nat := (ctl.extractLsb' 0 8).toNat

/-- `ROW_CTRL[8]`, the staged `refIn` (R16). -/
def rowRefIn (ctl : BitVec 10) : Bool := ctl.getLsbD 8

/-- `ROW_CTRL[9]`, the staged `refOut` (R16). -/
def rowRefOut (ctl : BitVec 10) : Bool := ctl.getLsbD 9

/-- `zext_64` of a 32-bit value (R7). -/
def zext64 (v : Word) : RspData := v.setWidth 64

/-- Byte `j` of a value: `v[8j+7 : 8j]` (43_hex_codec.md R105). -/
def byteOf (v : Word) (j : Nat) : Byte := v.extractLsb' (8 * j) 8

/-- Pack items into response data: item `k` is `data[8k+7:8k]`, bits above the last item are zero (20_memory.md R39). -/
def pack : List Byte → RspData
  | [] => 0
  | c :: cs => (pack cs <<< 8) ||| c.setWidth 64

/-- Item `k` of response data (R39). -/
def itemOf (data : RspData) (k : Nat) : Byte := data.extractLsb' (8 * k) 8

/-- The first `n` items of response data, item 0 first (R39). -/
def items (n : Nat) (data : RspData) : List Byte := (List.range n).map (itemOf data)

end Sys2Proof.Machine
end

