-- ==== Sys2Proof/Machine/Reflector.lean ====
section
/-! DEFINITION. The Bit Reflector (spec 41_reflector.md): the function `Reflect` and the three commands `REFL8`,
`REFL16`, `REFL32`. The unit holds no state (R10). -/

namespace Sys2Proof.Machine

open Sys2Proof

/-- The sum over the bits `i < k` of `v[i] * 2^(n-1-i)` (R70). -/
def reflectBelow (v : Word) (n : Nat) : Nat → Word
  | 0 => 0
  | k + 1 =>
    if v.getLsbD k then reflectBelow v n k ||| (1 : Word) <<< (n - 1 - k) else reflectBelow v n k

/-- `Reflect(v, w)`: bit `w-1-i` of the result is bit `i` of `v`, for every `i < w`; all other bits are clear (R70,
90_conflicts.md C5). -/
def reflect (v : Word) (w : Width) : Word := reflectBelow v w.bits w.bits

/-- `REFL8 v` (R72). -/
def execRefl8 (value : BitVec 8) (s : State) : Host.Outcome State Fault Refusal :=
  answer 1 (zext64 (reflect (value.setWidth 32) .w8)) s

/-- `REFL16 v` (R73). -/
def execRefl16 (value : BitVec 16) (s : State) : Host.Outcome State Fault Refusal :=
  answer 2 (zext64 (reflect (value.setWidth 32) .w16)) s

/-- `REFL32 v` (R74). -/
def execRefl32 (value : BitVec 32) (s : State) : Host.Outcome State Fault Refusal :=
  answer 4 (zext64 (reflect value .w32)) s

end Sys2Proof.Machine
end

