-- ==== Sys2Proof/Machine/Engine.lean ====
section
/-! DEFINITION. The CRC Engine (spec 42_engine.md): the one-bit steps, the absorption of a byte in both modes, the
message-level function `Compute`, and the commands `START`, `BYTE`, `FINAL`. -/

namespace Sys2Proof.Machine

open Sys2Proof

/-- `StepMSB(r, poly, W)`: the top bit is tested before the shift (R81). -/
def stepMSB (poly : Word) (w : Width) (r : Word) : Word :=
  if r.getLsbD (w.bits - 1) then ((r <<< 1) &&& mask w) ^^^ poly else (r <<< 1) &&& mask w

/-- `StepLSB(r, rpoly, W)`: the bottom bit is tested before the logical shift (R82). -/
def stepLSB (rpoly : Word) (r : Word) : Word :=
  if r.getLsbD 0 then (r >>> 1) ^^^ rpoly else r >>> 1

/-- `n` shift steps in a row. -/
def shiftSteps (step : Word → Word) : Nat → Word → Word
  | 0, r => r
  | n + 1, r => shiftSteps step n (step r)

/-- `AbsorbMSB(r, b, poly, W)`: the byte meets the top eight bits, then exactly eight steps (R83). -/
def absorbMSB (r : Word) (b : Byte) (poly : Word) (w : Width) : Word :=
  shiftSteps (stepMSB poly w) 8 (r ^^^ (b.setWidth 32 <<< (w.bits - 8)))

/-- `AbsorbLSB(r, b, rpoly, W)`: the byte, as it is, meets the low eight bits, then exactly eight steps (R84). -/
def absorbLSB (r : Word) (b : Byte) (rpoly : Word) : Word :=
  shiftSteps (stepLSB rpoly) 8 (r ^^^ b.setWidth 32)

/-- One byte in the mode `refIn` selects, with the polynomial of that mode (R80, R86). -/
def absorb (w : Width) (poly rpoly : Word) (refIn : Bool) (r : Word) (b : Byte) : Word :=
  if refIn then absorbLSB r b rpoly else absorbMSB r b poly w

/-- The register of a spec after the bytes of `data`, from `r` (R88). -/
def absorbAll (sp : Spec) (r : Word) (data : List Byte) : Word :=
  data.foldl (absorb sp.w sp.poly (reflect sp.poly sp.w) sp.refIn) r

/-- `Compute(spec, data)` (R88). Total on every spec; the spec defines it for those that fit (log entry 8). -/
def compute (sp : Spec) (data : List Byte) : Word :=
  absorbAll sp sp.init data ^^^ sp.xorOut

/-- `START` (R85): `INIT` is loaded as it stands in both modes; an open computation is abandoned. -/
def execStart (s : State) : Host.Outcome State Fault Refusal :=
  whenLoaded s (answer 0 0 (s.setReg s.init).openRun)

/-- `BYTE b` (R86). -/
def execByte (b : Byte) (s : State) : Host.Outcome State Fault Refusal :=
  whenRunning s (answer 0 0 (s.setReg (absorb s.w s.poly s.rpoly s.refIn s.reg b)))

/-- `FINAL` (R87): the register is not reflected and not changed. -/
def execFinal (s : State) : Host.Outcome State Fault Refusal :=
  whenRunning s (answer (BitVec.ofNat 4 s.w.bytes) (zext64 (s.reg ^^^ s.xorOut)) s.closeRun)

end Sys2Proof.Machine
end

