-- ==== Sys2Proof/Machine/HexCodec.lean ====
section
/-! DEFINITION. The Hex/Byte Codec (spec 43_hex_codec.md): the character classes, the hex-to-bytes converter (`HEXCH`,
`HEXEND` and the text-level `ParseHex`) and the bytes-to-hex converter (`FormatHex` and the six `FMT` commands). -/

namespace Sys2Proof.Machine

open Sys2Proof

/-- `IsSep(c)`: the space and no other character (R100, 90_conflicts.md C1). -/
def isSep (c : Byte) : Bool := c == 0x20

/-- `HexVal(c)`: the value of a hex digit of either case; none for every other code (R100). -/
def hexVal (c : Byte) : Option (BitVec 4) :=
  if 0x30 ≤ c ∧ c ≤ 0x39 then some ((c - 0x30).setWidth 4)
  else if 0x41 ≤ c ∧ c ≤ 0x46 then some ((c - 0x37).setWidth 4)
  else if 0x61 ≤ c ∧ c ≤ 0x66 then some ((c - 0x57).setWidth 4)
  else none

/-- `HEXCH c` (R101). -/
def execHexch (c : Byte) (s : State) : Host.Outcome State Fault Refusal :=
  whenTextGood s <|
    match isSep c, hexVal c, s.hhalf with
    | true, _, _ => answer 0 0 s
    | false, none, _ => raise .malformedHexInput s.failText
    | false, some d, false => answer 0 0 (s.keepNibble d)
    | false, some d, true => answer 1 ((s.hnib ++ d).setWidth 64) s.clearHalf

/-- `HEXEND` (R102): both flags are cleared, on success and on failure alike. -/
def execHexend (s : State) : Host.Outcome State Fault Refusal :=
  match s.hfail || s.hhalf with
  | true => raise .malformedHexInput s.clearText
  | false => answer 0 0 s.clearText

/-- Hex digits taken two at a time, the first the high nibble (R103). -/
def pairUp : List (BitVec 4) → List Byte
  | hi :: lo :: rest => (hi ++ lo) :: pairUp rest
  | _ => []

/-- `ParseHex(text)` (R103): separators are dropped; any other character, or an odd number of digits, is an error. -/
def parseHex (text : Text) : Except ErrorKind (List Byte) :=
  if text.all (fun c => isSep c || (hexVal c).isSome) then
    if (text.filterMap hexVal).length % 2 = 0 then .ok (pairUp (text.filterMap hexVal))
    else .error .malformedHexInput
  else .error .malformedHexInput

/-- `HexDigit(d)`: upper case (R104). -/
def hexDigit (d : BitVec 4) : Byte :=
  if d ≤ 9 then 0x30 + d.setWidth 8 else 0x37 + d.setWidth 8

/-- The display order `P` of the bytes of `v`: most-significant byte first, or least-significant first when `le` (R105). -/
def displayBytes (v : Word) (w : Width) (le : Bool) : List Byte :=
  let lsbFirst := (List.range w.bytes).map (byteOf v)
  if le then lsbFirst else lsbFirst.reverse

/-- The two characters of a byte, high nibble first in both orders (R105). -/
def byteText (b : Byte) : Text :=
  [hexDigit (b.extractLsb' 4 4), hexDigit (b.extractLsb' 0 4)]

/-- `FormatHex(v, nb, le)` with `nb = w.bytes` (R105). -/
def formatHex (v : Word) (w : Width) (le : Bool) : Text :=
  (displayBytes v w le).flatMap byteText

/-- The shape the six `FMT` commands share (R114). -/
def answerText (v : Word) (w : Width) (le : Bool) (s : State) : Host.Outcome State Fault Refusal :=
  answer (BitVec.ofNat 4 (2 * w.bytes)) (pack (formatHex v w le)) s

/-- `FMT1.BE v` (R106). -/
def execFmt1be (value : BitVec 8) (s : State) : Host.Outcome State Fault Refusal :=
  answerText (value.setWidth 32) .w8 false s

/-- `FMT1.LE v` (R107). -/
def execFmt1le (value : BitVec 8) (s : State) : Host.Outcome State Fault Refusal :=
  answerText (value.setWidth 32) .w8 true s

/-- `FMT2.BE v` (R108). -/
def execFmt2be (value : BitVec 16) (s : State) : Host.Outcome State Fault Refusal :=
  answerText (value.setWidth 32) .w16 false s

/-- `FMT2.LE v` (R109). -/
def execFmt2le (value : BitVec 16) (s : State) : Host.Outcome State Fault Refusal :=
  answerText (value.setWidth 32) .w16 true s

/-- `FMT4.BE v` (R110). -/
def execFmt4be (value : BitVec 32) (s : State) : Host.Outcome State Fault Refusal :=
  answerText value .w32 false s

/-- `FMT4.LE v` (R111). -/
def execFmt4le (value : BitVec 32) (s : State) : Host.Outcome State Fault Refusal :=
  answerText value .w32 true s

end Sys2Proof.Machine
end

