-- ==== Sys2Proof/Machine/SpecLoad.lean ====
section
/-! DEFINITION. Loading the algorithm parameters (spec 40_spec_load.md): the predicates `WellFormed` and `Supported`,
the four staging commands and `LDSPEC`. -/

namespace Sys2Proof.Machine

open Sys2Proof

/-- `WellFormed(width, poly, init, xorOut)` on four unsigned numbers (R60): the width it names, if the row is
well-formed. The values are compared, never truncated (R67). -/
def wellFormedWidth (width poly init xorOut : Nat) : Option Width :=
  match widthOfBits width with
  | none => none
  | some w =>
    if poly < 2 ^ w.bits ∧ init < 2 ^ w.bits ∧ xorOut < 2 ^ w.bits then some w else none

/-- `Supported(refIn, refOut)` (R61). -/
def supported (refIn refOut : Bool) : Bool := refIn == refOut

/-- `ROWCTL ctl` (R62): `ROW_CTRL <- arg[9:0]`, the ten bits of R44. -/
def execRowctl (width : Byte) (refIn refOut : Bool) (s : State) : Host.Outcome State Fault Refusal :=
  answer 0 0 (s.stageCtl (ctlBits width refIn refOut))

/-- `ROWPOLY p` (R63). -/
def execRowpoly (poly : Word) (s : State) : Host.Outcome State Fault Refusal :=
  answer 0 0 (s.stagePoly poly)

/-- `ROWINIT v` (R64). -/
def execRowinit (init : Word) (s : State) : Host.Outcome State Fault Refusal :=
  answer 0 0 (s.stageInit init)

/-- `ROWXOR x` (R65). -/
def execRowxor (xorOut : Word) (s : State) : Host.Outcome State Fault Refusal :=
  answer 0 0 (s.stageXor xorOut)

/-- The commit of the staged row, whose width has been found legal (R66). -/
def commitRow (w : Width) (s : State) : State :=
  s.loadSpec w s.rowPoly s.rowInit s.rowXor (rowRefIn s.rowCtrl) (rowRefOut s.rowCtrl) (reflect s.rowPoly w)

/-- `LDSPEC` (R66): the gate, then `WellFormed`, then `Supported`, then the commit. -/
def execLdspec (s : State) : Host.Outcome State Fault Refusal :=
  whenIdle s <|
    match wellFormedWidth (rowWidth s.rowCtrl) s.rowPoly.toNat s.rowInit.toNat s.rowXor.toNat with
    | none => raise .invalidSpec s
    | some w =>
      if supported (rowRefIn s.rowCtrl) (rowRefOut s.rowCtrl) then answer 0 0 (commitRow w s)
      else raise .unsupportedSpec s

end Sys2Proof.Machine
end

