-- ==== Sys2Proof/Machine/Dispatch.lean ====
section
/-! DEFINITION. One arm per command, each a direct call of its meaning. -/

namespace Sys2Proof.Machine

open Sys2Proof

/-- What each command does. -/
def exec (i : Instr) (s : State) : Host.Outcome State Fault Refusal :=
  match i with
  -- loading the algorithm parameters (40_spec_load.md)
  | .rowctl width refIn refOut => Sys2Proof.Machine.execRowctl width refIn refOut s
  | .rowpoly poly => Sys2Proof.Machine.execRowpoly poly s
  | .rowinit init => Sys2Proof.Machine.execRowinit init s
  | .rowxor xorOut => Sys2Proof.Machine.execRowxor xorOut s
  | .ldspec => Sys2Proof.Machine.execLdspec s
  -- the CRC Engine (42_engine.md)
  | .start => Sys2Proof.Machine.execStart s
  | .byte b => Sys2Proof.Machine.execByte b s
  | .final => Sys2Proof.Machine.execFinal s
  -- the Bit Reflector (41_reflector.md)
  | .refl8 value => Sys2Proof.Machine.execRefl8 value s
  | .refl16 value => Sys2Proof.Machine.execRefl16 value s
  | .refl32 value => Sys2Proof.Machine.execRefl32 value s
  -- the Hex/Byte Codec (43_hex_codec.md)
  | .hexch c => Sys2Proof.Machine.execHexch c s
  | .hexend => Sys2Proof.Machine.execHexend s
  | .fmt1be value => Sys2Proof.Machine.execFmt1be value s
  | .fmt1le value => Sys2Proof.Machine.execFmt1le value s
  | .fmt2be value => Sys2Proof.Machine.execFmt2be value s
  | .fmt2le value => Sys2Proof.Machine.execFmt2le value s
  | .fmt4be value => Sys2Proof.Machine.execFmt4be value s
  | .fmt4le value => Sys2Proof.Machine.execFmt4le value s

end Sys2Proof.Machine
end

