-- ==== Sys2Proof/Machine/Port.lean ====
section
/-! DEFINITION. What the block does with one input (spec 30_encoding.md R48, 70_reset_and_hazards.md R170, R171). -/

namespace Sys2Proof.Machine

open Sys2Proof

/-- One command word is taken and answered: a legal word runs its command, every other word is answered
`IllegalCommand` and changes no register (R47, R48, 60_exceptions.md R146). -/
def runWord (w : CmdWord) (s : State) : Host.Outcome State Fault Refusal :=
  match decode w with
  | .ok i => exec i s
  | .error _ => raise .illegalCommand s

/-- One input. While reset is asserted a command is not taken and gets no response, and a command in flight when
reset is asserted is lost without a trace (R170, R171). -/
def runEvent (e : PortEvent) (s : State) : Host.Outcome State Fault Refusal :=
  match e with
  | .command w =>
    match s.inReset with
    | true => .next s
    | false => runWord w s
  | .assertReset _ => .next s.enterReset
  | .releaseReset => .next s.leaveReset

/-- Take the next input off the port. -/
def State.takeEvent (rest : List PortEvent) (s : State) : State := { s with port := rest }

/-- Present a command word as the very next input, with reset released so that it is taken. -/
def State.present (w : CmdWord) (s : State) : State :=
  { s with inReset := false, port := .command w :: s.port }

end Sys2Proof.Machine
end

