-- ==== Sys2Proof/Machine/Step.lean ====
section
/-! DEFINITION. One step: the next input of the host, executed to completion (spec 20_memory.md R36). With no input
the block holds its state (60_exceptions.md R153). -/

namespace Sys2Proof.Machine

open Sys2Proof

/-- One step of the block. -/
def step (s : State) : Host.Outcome State Fault Refusal :=
  match s.port with
  | [] => .next s
  | e :: rest => runEvent e (s.takeEvent rest)

/-- `s` with the given instruction presented at the command port as its next input. The block fetches nothing (R18,
R38): presenting is what takes the place of fetching (log entry 2). Bits above `nbits` are zero. -/
def State.withFetchWord (s : State) (nbits w : Nat) : State :=
  s.present (BitVec.ofNat 40 (w % 2 ^ nbits))

end Sys2Proof.Machine
end

