-- ==== Sys2Proof/Machine/Pseudo.lean ====
section
/-! DEFINITION. The pseudo-instructions `LOADSPEC`, `COMPUTE`, `PARSEHEX`, `REFL`, `FMT` (spec 30_encoding.md R50), each a
fixed expansion into commands. The operands of the first three carry their widths in their types, so they expand to commands;
`REFL` and `FMT` take a value that may be too wide for its command (R43, R177), so they expand to the command words. -/

namespace Sys2Proof.Machine

open Sys2Proof

/-- `LOADSPEC w, poly, init, refin, refout, xorout`. -/
def loadSpecSeq (width : Byte) (poly init : Word) (refIn refOut : Bool) (xorOut : Word) : List Instr :=
  [.rowctl width refIn refOut, .rowpoly poly, .rowinit init, .rowxor xorOut, .ldspec]

/-- `COMPUTE [d0, ..., d(n-1)]`. -/
def computeSeq (data : List Byte) : List Instr :=
  .start :: (data.map .byte ++ [.final])

/-- `PARSEHEX "c0 c1 ... c(m-1)"`. -/
def parseHexSeq (text : Text) : List Instr :=
  text.map .hexch ++ [.hexend]

/-- The command of the reflector for a width (R46). -/
def reflMnemonic : Width → Mnemonic
  | .w8 => .refl8
  | .w16 => .refl16
  | .w32 => .refl32

/-- The `FMT` command for a size and a byte order (R45). -/
def fmtMnemonic : Width → Bool → Mnemonic
  | .w8, false => .fmt1be
  | .w8, true => .fmt1le
  | .w16, false => .fmt2be
  | .w16, true => .fmt2le
  | .w32, false => .fmt4be
  | .w32, true => .fmt4le

/-- `REFL w, v`, as the command word the host presents: the opcode with the whole of `v` as its `arg`. A value that does not
fit `w` bits sets a reserved bit, so the word is no command and the block answers `IllegalCommand` (R43, R47). -/
def reflSeq (w : Width) (v : Word) : List CmdWord :=
  [opcodeOf (reflMnemonic w) ++ v]

/-- `FMT nb, le, v` with `nb = w.bytes`, as the command word the host presents; a value that does not fit `nb` bytes is
answered `IllegalCommand` (R43, 43_hex_codec.md R105, 93_implementation_defined.md U5). -/
def fmtSeq (w : Width) (le : Bool) (v : Word) : List CmdWord :=
  [opcodeOf (fmtMnemonic w le) ++ v]

end Sys2Proof.Machine
end

