-- ==== Sys2Proof/Machine/HostProcs.lean ====
section
/-! DEFINITION. The host procedures (spec 44_host_procedures.md): `IngestRow`, `Dispatch`, `ListAlgorithms` and
`ComputeChecksum` as pure functions over an argument `TABLE`, and the same procedures as a host runs them on the block,
by presenting command words and reading responses. -/

namespace Sys2Proof.Machine

open Sys2Proof

/-- The AlgorithmSpec a row describes: the checks of `LDSPEC` on the row (R122, R123, 40_spec_load.md R66). -/
def specOfRow (row : Row) : Except ErrorKind Spec :=
  match wellFormedWidth row.width row.poly row.init row.xorOut with
  | none => .error .invalidSpec
  | some w =>
    if supported row.refIn row.refOut then
      .ok { w := w
            poly := BitVec.ofNat 32 row.poly
            init := BitVec.ofNat 32 row.init
            refIn := row.refIn
            xorOut := BitVec.ofNat 32 row.xorOut }
    else .error .unsupportedSpec

/-- `IngestRow(row)` (R122): well-formedness only; an asymmetric row passes. -/
def ingestRow (row : Row) : Except ErrorKind Row :=
  match wellFormedWidth row.width row.poly row.init row.xorOut with
  | none => .error .invalidSpec
  | some _ => .ok row

/-- One supplied row offered to a table (R122): an accepted row enters at the end, a rejected one leaves the table as it is and
its error is the answer. -/
def admitRow (table : Table) (row : Row) : Except ErrorKind Unit × Table :=
  match ingestRow row with
  | .error e => (.error e, table)
  | .ok accepted => (.ok (), table ++ [accepted])

/-- The `TABLE` formed from the rows the loader supplies, in their order (R121, R122): no rejected row is in it, and the
others are unaffected. Whether two rows may carry the same name and width is not stated (R122, 91_not_in_source.md N19): here
both enter (DESIGN CHOICE, log entry 14), and `dispatch` takes the first (92_eei_decisions.md D28). -/
def formTable (rows : List Row) : Table :=
  rows.foldl (fun table row => (admitRow table row).2) []

/-- The first row with the name and the width; both compared exactly (R123). -/
def lookUp (table : Table) (name : Text) (widthClass : Width) : Option Row :=
  table.find? fun row => row.name == name && row.width == widthClass.bits

/-- `Dispatch(TABLE, algorithmName, widthClass, data)` (R123). For a row the engine cannot compute with, the error is
the one the block answers to `LDSPEC` (log entry 6). -/
def dispatch (table : Table) (name : Text) (widthClass : Width) (data : List Byte) : Except ErrorKind Word :=
  match lookUp table name widthClass with
  | none => .error .unknownAlgorithm
  | some row =>
    match specOfRow row with
    | .error e => .error e
    | .ok sp => .ok (compute sp data)

/-- `ListAlgorithms(TABLE, widthClass)`: in table order (R124). -/
def listAlgorithms (table : Table) (widthClass : Width) : List Text :=
  (table.filter fun row => row.width == widthClass.bits).map Row.name

/-- `ComputeChecksum(TABLE, algorithmName, widthClass, rawHexText, littleEndianDisplay)`: parse, then look up, then
compute, then format (R125). -/
def computeChecksum (table : Table) (name : Text) (widthClass : Width) (text : Text) (le : Bool) : Except ErrorKind Text :=
  match parseHex text with
  | .error e => .error e
  | .ok bytes =>
    match dispatch table name widthClass bytes with
    | .error e => .error e
    | .ok c => .ok (formatHex c widthClass le)

/-- Go on with the result of a step, unless it stopped. -/
def andThen {α β : Type} (o : Host.Outcome α Fault Refusal) (k : α → Host.Outcome β Fault Refusal) :
    Host.Outcome β Fault Refusal :=
  match o with
  | .next a => k a
  | .fault r => .fault r
  | .refused r => .refused r

/-- The host presents command words one after the other, to a block out of reset (log entry 10). -/
def sendWords : List CmdWord → State → Host.Outcome State Fault Refusal
  | [], s => .next s
  | w :: ws, s => andThen (runWord w s) (sendWords ws)

/-- The host presents the words of the commands. -/
def sendAll (is : List Instr) (s : State) : Host.Outcome State Fault Refusal := sendWords (is.map encode) s

/-- The responses `t` holds beyond those of `s`. -/
def newResponses (s t : State) : List Response := t.responses.drop s.responses.length

/-- Present the command words and collect their responses, in order. -/
def exchange (ws : List CmdWord) (s : State) : Host.Outcome (List Response × State) Fault Refusal :=
  andThen (sendWords ws s) fun t => .next (newResponses s t, t)

/-- What the host makes of the last of some responses: its data, or the error kind its status names. (Every sequence
the host sends has a command, so the first case does not arise.) -/
def verdict (rs : List Response) : Except ErrorKind RspData :=
  match rs.getLast? with
  | none => .error .sequenceError
  | some r =>
    match errorOfCode r.st with
    | none => .ok r.data
    | some e => .error e

/-- `ParseHex` on the block (R103, R125): all characters and the end of the text are presented, and the bytes count
only if every response is `OK` (70_reset_and_hazards.md R173). -/
def parseHexOnBlock (text : Text) (s : State) : Host.Outcome (Except ErrorKind (List Byte) × State) Fault Refusal :=
  andThen (exchange ((parseHexSeq text).map encode) s) fun (rs, t) =>
    if rs.all (fun r => r.st == okCode) then
      .next (.ok ((rs.filter fun r => r.n == 1).map fun r => itemOf r.data 0), t)
    else .next (.error .malformedHexInput, t)

/-- `Compute` on the block, for the loaded spec (42_engine.md R88). -/
def computeOnBlock (data : List Byte) (s : State) : Host.Outcome (Except ErrorKind Word × State) Fault Refusal :=
  andThen (exchange ((computeSeq data).map encode) s) fun (rs, t) =>
    match verdict rs with
    | .error e => .next (.error e, t)
    | .ok d => .next (.ok (d.setWidth 32), t)

/-- Load a row (R122, R66). A row whose numbers do not fit the command fields cannot be presented
(70_reset_and_hazards.md R177); the host reports it as the ill-formed row it is (log entry 6). -/
def loadRowOnBlock (row : Row) (s : State) : Host.Outcome (Except ErrorKind Unit × State) Fault Refusal :=
  if row.width < 2 ^ 8 ∧ row.poly < 2 ^ 32 ∧ row.init < 2 ^ 32 ∧ row.xorOut < 2 ^ 32 then
    andThen
      (exchange
        ((loadSpecSeq (BitVec.ofNat 8 row.width) (BitVec.ofNat 32 row.poly) (BitVec.ofNat 32 row.init)
          row.refIn row.refOut (BitVec.ofNat 32 row.xorOut)).map encode) s)
      fun (rs, t) =>
        match verdict rs with
        | .error e => .next (.error e, t)
        | .ok _ => .next (.ok (), t)
  else .next (.error .invalidSpec, s)

/-- `Dispatch` on the block (R123): with an unknown name no command is sent. -/
def dispatchOnBlock (table : Table) (name : Text) (widthClass : Width) (data : List Byte) (s : State) :
    Host.Outcome (Except ErrorKind Word × State) Fault Refusal :=
  match lookUp table name widthClass with
  | none => .next (.error .unknownAlgorithm, s)
  | some row =>
    andThen (loadRowOnBlock row s) fun (loaded, t) =>
      match loaded with
      | .error e => .next (.error e, t)
      | .ok _ => computeOnBlock data t

/-- `ComputeChecksum` on the block (R125). -/
def computeChecksumOnBlock (table : Table) (name : Text) (widthClass : Width) (text : Text) (le : Bool) (s : State) :
    Host.Outcome (Except ErrorKind Text × State) Fault Refusal :=
  andThen (parseHexOnBlock text s) fun (parsed, t) =>
    match parsed with
    | .error e => .next (.error e, t)
    | .ok bytes =>
      andThen (dispatchOnBlock table name widthClass bytes t) fun (computed, u) =>
        match computed with
        | .error e => .next (.error e, u)
        | .ok c =>
          andThen (exchange (fmtSeq widthClass le c) u) fun (rs, v) =>
            match verdict rs with
            | .error e => .next (.error e, v)
            | .ok d => .next (.ok (items (2 * widthClass.bytes) d), v)

/-- A byte with its bits reversed (41_reflector.md R70, width 8). -/
def reflectByte (b : Byte) : Byte := (reflect (b.setWidth 32) .w8).setWidth 8

/-- The recipe of 70_reset_and_hazards.md R176 for an algorithm whose reflection flags differ, as a function: reflect the
bytes if `refIn`, compute in the non-reflected mode with no mask, reflect the register if `refOut`, apply the mask. The
spec marks it as its own reading and not normative. It does not say what happens to a mask at or above `2 ^ w.bits`, which no
`LDSPEC` checks: here all of the mask is applied (DESIGN CHOICE, log entry 15). -/
def computeByRecipe (w : Width) (poly init xorOut : Word) (refIn refOut : Bool) (data : List Byte) : Word :=
  let r := compute { w := w, poly := poly, init := init, refIn := false, xorOut := 0 }
    (if refIn then data.map reflectByte else data)
  (if refOut then reflect r w else r) ^^^ xorOut

/-- The same recipe on the block: `REFL8` of each byte, `LOADSPEC` with both flags false and no mask, `COMPUTE`, `REFL` of
the result (R176). The host applies the mask itself, all of it, also one at or above `2 ^ w.bits`, for which R176 is silent: the
answer is then a value wider than `w`, not `InvalidSpec` (DESIGN CHOICE, log entry 15). -/
def computeByRecipeOnBlock (w : Width) (poly init xorOut : Word) (refIn refOut : Bool) (data : List Byte) (s : State) :
    Host.Outcome (Except ErrorKind Word × State) Fault Refusal :=
  andThen (exchange (if refIn then data.map fun b => encode (.refl8 b) else []) s) fun (rs, t) =>
    andThen (exchange ((loadSpecSeq (BitVec.ofNat 8 w.bits) poly init false false 0).map encode) t) fun (ls, u) =>
      match verdict ls with
      | .error e => .next (.error e, u)
      | .ok _ =>
        andThen (computeOnBlock (if refIn then rs.map fun r => itemOf r.data 0 else data) u) fun (c, v) =>
          match c with
          | .error e => .next (.error e, v)
          | .ok r =>
            andThen (exchange (if refOut then reflSeq w r else []) v) fun (qs, x) =>
              match refOut, verdict qs with
              | false, _ => .next (.ok (r ^^^ xorOut), x)
              | true, .ok d => .next (.ok (d.setWidth 32 ^^^ xorOut), x)
              | true, .error e => .next (.error e, x)

end Sys2Proof.Machine
end

