-- ==== Sys2Proof/Safety.lean ====
section
/-! DEFINITION. The terms in which claims about the block are made: the invariant of spec 10_state.md R22, quiescence
(70_reset_and_hazards.md R180), a valid response (30_encoding.md R41), and when two states cannot be told apart through
the port (10_state.md R22 item 5, 93_implementation_defined.md U7, U8). -/

namespace Sys2Proof.Machine

open Sys2Proof

/-- Item 2 of R22, for a loaded spec: the values fit the width, the flags agree, `RPOLY` is the reflection. -/
abbrev State.SpecFits (s : State) : Prop :=
  s.poly.toNat < 2 ^ s.w.bits ∧ s.init.toNat < 2 ^ s.w.bits ∧ s.xorOut.toNat < 2 ^ s.w.bits ∧
    s.refIn = s.refOut ∧ s.rpoly = reflect s.poly s.w

/-- Items 2 and 3 of R22. (Item 1 and `W` in {8, 16, 32} hold by the types of the fields.) -/
abbrev State.Inv (s : State) : Prop :=
  (s.specv = true → s.SpecFits) ∧ (s.run = true → s.specv = true ∧ s.reg.toNat < 2 ^ s.w.bits)

/-- The hex-to-bytes converter is in its rest state (R102, R103). -/
abbrev State.ParserAtRest (s : State) : Prop := s.hhalf = false ∧ s.hfail = false

/-- No computation and no text is open (R180). -/
abbrev State.Quiescent (s : State) : Prop := s.run = false ∧ s.ParserAtRest

/-- A response as R41 allows it: a success with `n` items and zeros above them, or a failure, with one of the codes
the block can produce, no item and no data. -/
abbrev Response.Valid (r : Response) : Prop :=
  (r.st = 0 ∧ (r.n = 0 ∨ r.n = 1 ∨ r.n = 2 ∨ r.n = 4 ∨ r.n = 8) ∧ r.data.toNat < 2 ^ (8 * r.n.toNat)) ∨
    ((r.st = 1 ∨ r.st = 3 ∨ r.st = 4 ∨ r.st = 5 ∨ r.st = 6) ∧ r.n = 0 ∧ r.data = 0)

/-- Two states agree on everything a response can ever depend on: each register the spec leaves unspecified counts only
while its gate is open. -/
abbrev State.SameView (s t : State) : Prop :=
  s.rowCtrl = t.rowCtrl ∧ s.rowPoly = t.rowPoly ∧ s.rowInit = t.rowInit ∧ s.rowXor = t.rowXor ∧
  s.specv = t.specv ∧ s.run = t.run ∧ s.hfail = t.hfail ∧
  s.inReset = t.inReset ∧ s.port = t.port ∧ s.responses = t.responses ∧
  (s.specv = true → s.w = t.w ∧ s.poly = t.poly ∧ s.init = t.init ∧ s.xorOut = t.xorOut ∧ s.refIn = t.refIn ∧
    s.refOut = t.refOut ∧ s.rpoly = t.rpoly) ∧
  (s.run = true → s.reg = t.reg) ∧
  (s.hfail = false → s.hhalf = t.hhalf ∧ (s.hhalf = true → s.hnib = t.hnib))

/-- Every row of the table has passed `IngestRow` (44_host_procedures.md R122). -/
abbrev TableIngested (table : Table) : Prop := ∀ row ∈ table, ingestRow row = .ok row

/-- The message bytes among some commands, in order. -/
def bytesOf : List Instr → List Byte
  | [] => []
  | .byte b :: is => b :: bytesOf is
  | _ :: is => bytesOf is

end Sys2Proof.Machine

namespace Sys2Proof

/-- The command belongs to the hex-to-bytes converter (20_memory.md R37). -/
def Instr.isParser : Instr → Bool
  | .hexch _ | .hexend => true
  | _ => false

/-- The command belongs to a unit without state: the reflector or the bytes-to-hex converter (R10, R37). -/
def Instr.isStateless : Instr → Bool
  | .refl8 _ | .refl16 _ | .refl32 _ | .fmt1be _ | .fmt1le _ | .fmt2be _ | .fmt2le _ | .fmt4be _ | .fmt4le _ => true
  | _ => false

/-- The command stages a row (R16). -/
def Instr.isStaging : Instr → Bool
  | .rowctl _ _ _ | .rowpoly _ | .rowinit _ | .rowxor _ => true
  | _ => false

/-- The command belongs to the engine (42_engine.md). -/
def Instr.isEngine : Instr → Bool
  | .start | .byte _ | .final => true
  | _ => false

end Sys2Proof
end

