-- ==== Sys2Proof/Certificates/Slice0/Obligations.lean ====
section
/-! DEFINITION. What is claimed of the block, stated from the numbered rules of spec/. In every statement a command's
next state is written out as a whole record, so it says what the command leaves unchanged as well as what it writes:
every register not named, the inputs to come and the reset input. The block has no memory (20_memory.md R30). -/

open Sys2Proof Sys2Proof.Machine

/-! ## Encoding (30_encoding.md) -/

/-- A few words written out from R40 and R42, one or more of each unit, and the two ways a word is rejected. -/
def Obligations.DecodeReadsSpecWords : Prop :=
  decode 0x1000000310 = .ok (.rowctl 0x10 true true) ∧
  decode 0x1100008005 = .ok (.rowpoly 0x8005) ∧
  decode 0x1400000000 = .ok .ldspec ∧
  decode 0x21000000A5 = .ok (.byte 0xA5) ∧
  decode 0x2200000000 = .ok .final ∧
  decode 0x3204C11DB7 = .ok (.refl32 0x04C11DB7) ∧
  decode 0x4000000062 = .ok (.hexch 0x62) ∧
  decode 0x5300004B37 = .ok (.fmt2le 0x4B37) ∧
  decode 0x0000000000 = .error .unknownOpcode ∧
  decode 0x5600000000 = .error .unknownOpcode ∧
  decode 0x1000000400 = .error .reservedArgBits ∧
  decode 0x2100000100 = .error .reservedArgBits

/-- Decoding the word of any command gives the command back, with every operand at every value. (Every term of `Instr`
is well-formed: its operands have the exact widths of R43.) -/
def Obligations.DecodeEncodeAgree : Prop :=
  ∀ i : Instr, decode (encode i) = .ok i

/-- A word that decodes is the encoding of what it decodes to, so no two words mean the same command. -/
def Obligations.EncodeDecodeAgree : Prop :=
  ∀ (w : CmdWord) (i : Instr), decode w = .ok i → encode i = w

/-- R47, R48: a word is one of the nineteen commands exactly when its opcode is in the table and its reserved `arg` bits
are zero, and then it runs that command; every other word is answered `IllegalCommand` and changes no register. The
table is R42's opcodes with R43's used-bits masks. -/
def Obligations.ExactlyTheLegalWordsRun : Prop :=
  let table : List (BitVec 8 × BitVec 32) :=
    [(0x10, 0x3FF), (0x11, 0xFFFFFFFF), (0x12, 0xFFFFFFFF), (0x13, 0xFFFFFFFF), (0x14, 0),
     (0x20, 0), (0x21, 0xFF), (0x22, 0),
     (0x30, 0xFF), (0x31, 0xFFFF), (0x32, 0xFFFFFFFF),
     (0x40, 0xFF), (0x41, 0),
     (0x50, 0xFF), (0x51, 0xFF), (0x52, 0xFFFF), (0x53, 0xFFFF), (0x54, 0xFFFFFFFF), (0x55, 0xFFFFFFFF)]
  ∀ (op : BitVec 8) (arg : BitVec 32) (s : State),
    ((∀ p ∈ table, p.1 ≠ op) →
      decode (op ++ arg) = .error .unknownOpcode ∧
      runWord (op ++ arg) s = .next { s with responses := s.responses ++ [⟨6, 0, 0⟩] }) ∧
    (∀ p ∈ table, p.1 = op →
      (arg &&& ~~~ p.2 ≠ 0 →
        decode (op ++ arg) = .error .reservedArgBits ∧
        runWord (op ++ arg) s = .next { s with responses := s.responses ++ [⟨6, 0, 0⟩] }) ∧
      (arg &&& ~~~ p.2 = 0 →
        ∃ i, decode (op ++ arg) = .ok i ∧ runWord (op ++ arg) s = exec i s))

/-- R51: for each row of the opcode table, a word is that command exactly when `w AND mask = match`; the rows are
pairwise disjoint, because no word is two commands. The pairs are those of spec/opcode_table.json. -/
def Obligations.OpcodeTableRowsMatch : Prop :=
  let rows : List (CmdWord × CmdWord × Mnemonic) :=
    [(0x1000000000, 0xFFFFFFFC00, .rowctl), (0x1100000000, 0xFF00000000, .rowpoly),
     (0x1200000000, 0xFF00000000, .rowinit), (0x1300000000, 0xFF00000000, .rowxor),
     (0x1400000000, 0xFFFFFFFFFF, .ldspec), (0x2000000000, 0xFFFFFFFFFF, .start),
     (0x2100000000, 0xFFFFFFFF00, .byte), (0x2200000000, 0xFFFFFFFFFF, .final),
     (0x3000000000, 0xFFFFFFFF00, .refl8), (0x3100000000, 0xFFFFFF0000, .refl16),
     (0x3200000000, 0xFF00000000, .refl32), (0x4000000000, 0xFFFFFFFF00, .hexch),
     (0x4100000000, 0xFFFFFFFFFF, .hexend), (0x5000000000, 0xFFFFFFFF00, .fmt1be),
     (0x5100000000, 0xFFFFFFFF00, .fmt1le), (0x5200000000, 0xFFFFFF0000, .fmt2be),
     (0x5300000000, 0xFFFFFF0000, .fmt2le), (0x5400000000, 0xFF00000000, .fmt4be),
     (0x5500000000, 0xFF00000000, .fmt4le)]
  (∀ (w : CmdWord), ∀ r ∈ rows, w &&& r.2.1 = r.1 ↔ ∃ i, decode w = .ok i ∧ i.mnemonic = r.2.2) ∧
  rows.Pairwise (fun r q => ∀ w : CmdWord, ¬ (w &&& r.2.1 = r.1 ∧ w &&& q.2.1 = q.1))

/-- R43, R44: the operand of each command is the low bits of `arg`, unsigned, with zeros above; `ROWCTL` carries
`refOut` in bit 9, `refIn` in bit 8 and the width in bits 7 to 0. -/
def Obligations.OperandsAreLowArgBits : Prop :=
  (∀ (width : Byte) (refIn refOut : Bool),
    decode ((0x10 : BitVec 8) ++ (0 : BitVec 22) ++ BitVec.ofBool refOut ++ BitVec.ofBool refIn ++ width) =
      .ok (.rowctl width refIn refOut)) ∧
  (∀ v : BitVec 32,
    decode ((0x11 : BitVec 8) ++ v) = .ok (.rowpoly v) ∧ decode ((0x12 : BitVec 8) ++ v) = .ok (.rowinit v) ∧
    decode ((0x13 : BitVec 8) ++ v) = .ok (.rowxor v) ∧ decode ((0x32 : BitVec 8) ++ v) = .ok (.refl32 v) ∧
    decode ((0x54 : BitVec 8) ++ v) = .ok (.fmt4be v) ∧ decode ((0x55 : BitVec 8) ++ v) = .ok (.fmt4le v)) ∧
  (∀ v : BitVec 16,
    decode ((0x31 : BitVec 8) ++ (0 : BitVec 16) ++ v) = .ok (.refl16 v) ∧
    decode ((0x52 : BitVec 8) ++ (0 : BitVec 16) ++ v) = .ok (.fmt2be v) ∧
    decode ((0x53 : BitVec 8) ++ (0 : BitVec 16) ++ v) = .ok (.fmt2le v)) ∧
  (∀ v : BitVec 8,
    decode ((0x21 : BitVec 8) ++ (0 : BitVec 24) ++ v) = .ok (.byte v) ∧
    decode ((0x30 : BitVec 8) ++ (0 : BitVec 24) ++ v) = .ok (.refl8 v) ∧
    decode ((0x40 : BitVec 8) ++ (0 : BitVec 24) ++ v) = .ok (.hexch v) ∧
    decode ((0x50 : BitVec 8) ++ (0 : BitVec 24) ++ v) = .ok (.fmt1be v) ∧
    decode ((0x51 : BitVec 8) ++ (0 : BitVec 24) ++ v) = .ok (.fmt1le v))

/-- R45, R46: the fields inside the opcodes of `FMT` (`sz = op[2:1]`, `le = op[0]`) and `REFL` (`wc = op[3:0]`). -/
def Obligations.FmtAndReflOpcodeFields : Prop :=
  ∀ (op : BitVec 8) (arg : BitVec 32),
    (op.extractLsb' 3 5 = 0b01010#5 →
      (op.extractLsb' 1 2 = 3#2 → decode (op ++ arg) = .error .unknownOpcode) ∧
      (∀ i, decode (op ++ arg) = .ok i →
        (op.extractLsb' 1 2 = 0#2 → op.getLsbD 0 = false → i = .fmt1be (arg.extractLsb' 0 8)) ∧
        (op.extractLsb' 1 2 = 0#2 → op.getLsbD 0 = true → i = .fmt1le (arg.extractLsb' 0 8)) ∧
        (op.extractLsb' 1 2 = 1#2 → op.getLsbD 0 = false → i = .fmt2be (arg.extractLsb' 0 16)) ∧
        (op.extractLsb' 1 2 = 1#2 → op.getLsbD 0 = true → i = .fmt2le (arg.extractLsb' 0 16)) ∧
        (op.extractLsb' 1 2 = 2#2 → op.getLsbD 0 = false → i = .fmt4be arg) ∧
        (op.extractLsb' 1 2 = 2#2 → op.getLsbD 0 = true → i = .fmt4le arg))) ∧
    (op.extractLsb' 4 4 = 3#4 →
      (3 ≤ (op.extractLsb' 0 4).toNat → decode (op ++ arg) = .error .unknownOpcode) ∧
      (∀ i, decode (op ++ arg) = .ok i →
        (op.extractLsb' 0 4 = 0#4 → i = .refl8 (arg.extractLsb' 0 8)) ∧
        (op.extractLsb' 0 4 = 1#4 → i = .refl16 (arg.extractLsb' 0 16)) ∧
        (op.extractLsb' 0 4 = 2#4 → i = .refl32 arg)))

/-- R49: the assembler turns a line into a command exactly when the line is well-formed, and assembling the line of a
command gives the command back. -/
def Obligations.AssemblerRejectsWhatDoesNotFit : Prop :=
  (∀ i : Instr, assemble (listing i) = some i) ∧
  (∀ l : AsmLine, assemble l = none ↔
    ¬ ((l.mnemonic.usedBits = 0 ∧ l.operand = none) ∨
        (l.mnemonic.usedBits ≠ 0 ∧ ∃ v, l.operand = some v ∧ v < 2 ^ l.mnemonic.usedBits)))

/-! ## The step, the port and reset (20_memory.md, 30_encoding.md, 70_reset_and_hazards.md) -/

/-- When the next input is a word that decodes to a command, a step is that command, at the state with the input
taken. (The list of inputs to come is the model's choice, log entry 2.) -/
def Obligations.StepRunsDecodedCommand : Prop :=
  ∀ (s : State) (w : CmdWord) (rest : List PortEvent) (i : Instr),
    s.port = .command w :: rest → s.inReset = false → decode w = .ok i →
      step s = exec i { s with port := rest }

/-- R146: an illegal word is answered code 6 and has no effect on any register, in every state, including inside an open
text and an open computation. -/
def Obligations.StepAnswersIllegalWord : Prop :=
  ∀ (s : State) (w : CmdWord) (rest : List PortEvent),
    s.port = .command w :: rest → s.inReset = false → (∀ i, decode w ≠ .ok i) →
      step s = .next { s with port := rest, responses := s.responses ++ [⟨6, 0, 0⟩] }

/-- The reset input: asserting it takes no command, gives no response and loses a command in flight; while it is
asserted a command is not taken; releasing it leaves the flags and the staging registers 0. (Reset as inputs of the port
is the model's choice, log entry 4.) -/
def Obligations.ResetInputClearsTheBlock : Prop :=
  (∀ (s : State) (c : Option CmdWord) (rest : List PortEvent), s.port = .assertReset c :: rest →
    ∃ t, step s = .next t ∧ t.inReset = true ∧ t.port = rest ∧ t.responses = s.responses) ∧
  (∀ (s : State) (w : CmdWord) (rest : List PortEvent), s.port = .command w :: rest → s.inReset = true →
    step s = .next { s with port := rest }) ∧
  (∀ (s : State) (rest : List PortEvent), s.port = .releaseReset :: rest → s.inReset = true →
    ∃ t, step s = .next t ∧ t.inReset = false ∧ t.port = rest ∧ t.responses = s.responses ∧
      t.specv = false ∧ t.run = false ∧ t.hhalf = false ∧ t.hfail = false ∧
      t.rowCtrl = 0 ∧ t.rowPoly = 0 ∧ t.rowInit = 0 ∧ t.rowXor = 0)

/-- The values R23 gives after reset: four flags and four staging registers. The other nine registers are left
unspecified there, and this statement says nothing of them (log entry 1). -/
def Obligations.ResetStateHoldsSpecValues : Prop :=
  State.reset.specv = false ∧ State.reset.run = false ∧ State.reset.hhalf = false ∧ State.reset.hfail = false ∧
  State.reset.rowCtrl = 0 ∧ State.reset.rowPoly = 0 ∧ State.reset.rowInit = 0 ∧ State.reset.rowXor = 0

/-- Straight after reset: `LDSPEC` is `InvalidSpec` (R16, R66); `START`, `BYTE` and `FINAL` are `SequenceError` (R172). -/
def Obligations.BootOrderIsEnforced : Prop :=
  exec .ldspec State.reset = .next { State.reset with responses := [⟨3, 0, 0⟩] } ∧
  exec .start State.reset = .next { State.reset with responses := [⟨5, 0, 0⟩] } ∧
  (∀ b, exec (.byte b) State.reset = .next { State.reset with responses := [⟨5, 0, 0⟩] }) ∧
  exec .final State.reset = .next { State.reset with responses := [⟨5, 0, 0⟩] }

/-- R41: every command produces exactly one response, of the form R41 gives: `n` is 0, 1, 2, 4 or 8, the bits above the
last item are zero, a failure carries no item and no data (in a state that meets the invariant of `StepKeepsInv`, which
keeps the register within its width); and in the 76-bit word `st`, `n` and `data` stand at bits
75 to 68, 67 to 64 and 63 to 0. -/
def Obligations.EveryCommandIsAnswered : Prop :=
  (∀ (s : State) (w : CmdWord) (rest : List PortEvent), s.Inv → s.port = .command w :: rest → s.inReset = false →
    ∃ t r, step s = .next t ∧ t.port = rest ∧ t.responses = s.responses ++ [r] ∧ r.Valid) ∧
  (∀ r : Response, r.word.extractLsb' 68 8 = r.st ∧ r.word.extractLsb' 64 4 = r.n ∧ r.word.extractLsb' 0 64 = r.data)

/-- No step stops, so the block is never stuck (R179); with no input waiting it holds its state (R153). -/
def Obligations.StepNeverStops : Prop :=
  (∀ s : State, ∃ t, step s = .next t) ∧ (∀ s : State, s.port = [] → step s = .next s)

/-- R36: commands presented at the port are executed strictly in order, one a step, each to completion. -/
def Obligations.PortRunsCommandsInOrder : Prop :=
  ∀ (is : List Instr) (s : State) (rest : List PortEvent),
    s.inReset = false → s.port = is.map (fun i => PortEvent.command (encode i)) ++ rest →
      core.run is.length s = sendAll is { s with port := rest }

/-! ## Loading the algorithm parameters (40_spec_load.md) -/

/-- R62 to R65: the four staging commands write their register and nothing else, in every state; a reserved bit in
`ROWCTL` leaves `ROW_CTRL` unchanged. -/
def Obligations.StagingCommandsWriteTheirRegister : Prop :=
  (∀ (s : State) (arg : BitVec 32), arg.extractLsb' 10 22 = 0 →
    runWord ((0x10 : BitVec 8) ++ arg) s =
      .next { s with rowCtrl := arg.extractLsb' 0 10, responses := s.responses ++ [⟨0, 0, 0⟩] }) ∧
  (∀ (s : State) (arg : BitVec 32), arg.extractLsb' 10 22 ≠ 0 →
    runWord ((0x10 : BitVec 8) ++ arg) s = .next { s with responses := s.responses ++ [⟨6, 0, 0⟩] }) ∧
  (∀ (s : State) (width : Byte) (refIn refOut : Bool), ∃ ctl : BitVec 10,
    exec (.rowctl width refIn refOut) s =
      .next { s with rowCtrl := ctl, responses := s.responses ++ [⟨0, 0, 0⟩] } ∧
    ctl.extractLsb' 0 8 = width ∧ ctl.getLsbD 8 = refIn ∧ ctl.getLsbD 9 = refOut) ∧
  (∀ (s : State) (p : Word), decode ((0x11 : BitVec 8) ++ p) = .ok (.rowpoly p) ∧
    exec (.rowpoly p) s = .next { s with rowPoly := p, responses := s.responses ++ [⟨0, 0, 0⟩] }) ∧
  (∀ (s : State) (v : Word), decode ((0x12 : BitVec 8) ++ v) = .ok (.rowinit v) ∧
    exec (.rowinit v) s = .next { s with rowInit := v, responses := s.responses ++ [⟨0, 0, 0⟩] }) ∧
  (∀ (s : State) (x : Word), decode ((0x13 : BitVec 8) ++ x) = .ok (.rowxor x) ∧
    exec (.rowxor x) s = .next { s with rowXor := x, responses := s.responses ++ [⟨0, 0, 0⟩] })

/-- R66, R60, R61: `LDSPEC` checks, in this order, that no computation is open, that the row is well-formed (a width of
8, 16 or 32 and three values below 2^width), and that the flags agree; on any error every register is unchanged; else
the active spec, `RPOLY` and `SPECV` are written. -/
def Obligations.LdspecValidatesThenLoads : Prop :=
  (∀ arg : BitVec 32, arg ≠ 0 → decode ((0x14 : BitVec 8) ++ arg) = .error .reservedArgBits) ∧
  decode 0x1400000000 = .ok .ldspec ∧
  ∀ s : State,
    let n := (s.rowCtrl.extractLsb' 0 8).toNat
    let fits := (n = 8 ∨ n = 16 ∨ n = 32) ∧ s.rowPoly.toNat < 2 ^ n ∧ s.rowInit.toNat < 2 ^ n ∧ s.rowXor.toNat < 2 ^ n
    (s.run = true → exec .ldspec s = .next { s with responses := s.responses ++ [⟨5, 0, 0⟩] }) ∧
    (s.run = false → ¬ fits → exec .ldspec s = .next { s with responses := s.responses ++ [⟨3, 0, 0⟩] }) ∧
    (s.run = false → fits → s.rowCtrl.getLsbD 8 ≠ s.rowCtrl.getLsbD 9 →
      exec .ldspec s = .next { s with responses := s.responses ++ [⟨4, 0, 0⟩] }) ∧
    (s.run = false → fits → s.rowCtrl.getLsbD 8 = s.rowCtrl.getLsbD 9 →
      ∃ w : Width, w.bits = n ∧
        exec .ldspec s = .next
          { s with
            w := w
            poly := s.rowPoly
            init := s.rowInit
            xorOut := s.rowXor
            refIn := s.rowCtrl.getLsbD 8
            refOut := s.rowCtrl.getLsbD 9
            rpoly := reflect s.rowPoly w
            specv := true
            responses := s.responses ++ [⟨0, 0, 0⟩] })

/-- R67: validation compares the full 32-bit staged values and never truncates them: after a successful `LDSPEC` the
active values are the staged ones, and shifting them right by the width leaves nothing. -/
def Obligations.ValidationNeverTruncates : Prop :=
  ∀ s t : State, exec .ldspec s = .next t → t.responses = s.responses ++ [⟨0, 0, 0⟩] →
    t.poly = s.rowPoly ∧ t.init = s.rowInit ∧ t.xorOut = s.rowXor ∧
    s.rowPoly >>> t.w.bits = 0 ∧ s.rowInit >>> t.w.bits = 0 ∧ s.rowXor >>> t.w.bits = 0 ∧
    t.SpecFits

/-! ## The Bit Reflector (41_reflector.md) -/

/-- Bit `w-1-i` of the reflection is bit `i` of the value, for every `i` below the width, and the result is below 2^w. For
values below 2^w this is the rule of 41_reflector.md section 1; that a wider value is reflected in its low bits is the
model's choice (log entry 8). -/
def Obligations.ReflectReversesBits : Prop :=
  ∀ (v : Word) (w : Width),
    (∀ i, i < w.bits → (reflect v w).getLsbD (w.bits - 1 - i) = v.getLsbD i) ∧ (reflect v w).toNat < 2 ^ w.bits

/-- R71: the five properties of the reflector. -/
def Obligations.ReflectorLaws : Prop :=
  (∀ (x : Word) (w : Width), x.toNat < 2 ^ w.bits → reflect (reflect x w) w = x) ∧
  (∀ w : Width, reflect 0 w = 0 ∧ reflect (mask w) w = mask w ∧
    reflect 1 w = (1 : Word) <<< (w.bits - 1) ∧ reflect ((1 : Word) <<< (w.bits - 1)) w = 1) ∧
  (∀ (a b : Word) (w : Width), reflect (a ^^^ b) w = reflect a w ^^^ reflect b w) ∧
  (∀ (x : Word) (w : Width), x.toNat < 2 ^ w.bits →
    reflect (x >>> 1) w = (reflect x w <<< 1) &&& mask w ∧
    reflect ((x <<< 1) &&& mask w) w = reflect x w >>> 1) ∧
  reflect 0x07 .w8 = 0xE0 ∧ reflect 0x0007 .w16 = 0xE000

/-- R72 to R74: each `REFL` command answers the reflected value, bit by bit, and writes no register, in every state; a
value wider than the command is illegal. -/
def Obligations.ReflCommandsAnswerTheReflection : Prop :=
  (∀ (s : State) (v : BitVec 8), ∃ d : RspData,
    exec (.refl8 v) s = .next { s with responses := s.responses ++ [⟨0, 1, d⟩] } ∧
    d.toNat < 2 ^ 8 ∧ ∀ i, i < 8 → d.getLsbD (7 - i) = v.getLsbD i) ∧
  (∀ (s : State) (v : BitVec 16), ∃ d : RspData,
    exec (.refl16 v) s = .next { s with responses := s.responses ++ [⟨0, 2, d⟩] } ∧
    d.toNat < 2 ^ 16 ∧ ∀ i, i < 16 → d.getLsbD (15 - i) = v.getLsbD i) ∧
  (∀ (s : State) (v : BitVec 32), ∃ d : RspData,
    exec (.refl32 v) s = .next { s with responses := s.responses ++ [⟨0, 4, d⟩] } ∧
    d.toNat < 2 ^ 32 ∧ ∀ i, i < 32 → d.getLsbD (31 - i) = v.getLsbD i) ∧
  (∀ arg : BitVec 32,
    decode ((0x30 : BitVec 8) ++ arg) =
      (if arg.toNat < 2 ^ 8 then .ok (.refl8 (arg.extractLsb' 0 8)) else .error .reservedArgBits) ∧
    decode ((0x31 : BitVec 8) ++ arg) =
      (if arg.toNat < 2 ^ 16 then .ok (.refl16 (arg.extractLsb' 0 16)) else .error .reservedArgBits) ∧
    decode ((0x32 : BitVec 8) ++ arg) = .ok (.refl32 arg))

/-! ## The CRC Engine (42_engine.md) -/

/-- R81: one step of the non-reflected mode, as arithmetic on naturals: double, drop what falls off at bit W, and
exclusive-or the polynomial when the top bit was set before the shift. -/
def Obligations.StepMsbShiftsAndDivides : Prop :=
  ∀ (w : Width) (poly r : Word), r.toNat < 2 ^ w.bits → poly.toNat < 2 ^ w.bits →
    (stepMSB poly w r).toNat =
      ((2 * r.toNat) % 2 ^ w.bits) ^^^ (if 2 ^ (w.bits - 1) ≤ r.toNat then poly.toNat else 0) ∧
    (stepMSB poly w r).toNat < 2 ^ w.bits

/-- R82: one step of the reflected mode: halve, and exclusive-or the reflected polynomial when the bottom bit was set
before the shift. -/
def Obligations.StepLsbShiftsAndDivides : Prop :=
  ∀ (w : Width) (rpoly r : Word), r.toNat < 2 ^ w.bits → rpoly.toNat < 2 ^ w.bits →
    (stepLSB rpoly r).toNat = (r.toNat / 2) ^^^ (if r.toNat % 2 = 1 then rpoly.toNat else 0) ∧
    (stepLSB rpoly r).toNat < 2 ^ w.bits

/-- R85: `START` loads `INIT` as it stands, in both modes, and opens the computation, also when one is open already;
with no spec loaded it is a `SequenceError` and writes nothing. -/
def Obligations.StartOpensAComputation : Prop :=
  (∀ arg : BitVec 32, arg ≠ 0 → decode ((0x20 : BitVec 8) ++ arg) = .error .reservedArgBits) ∧
  decode 0x2000000000 = .ok .start ∧
  ∀ s : State,
    (s.specv = true →
      exec .start s = .next { s with reg := s.init, run := true, responses := s.responses ++ [⟨0, 0, 0⟩] }) ∧
    (s.specv = false → exec .start s = .next { s with responses := s.responses ++ [⟨5, 0, 0⟩] })

/-- R86, R83, R84, R80: `BYTE` exclusive-ors the byte into the top eight bits of the register (non-reflected mode) or the
low eight (reflected mode) and shifts exactly eight times with the polynomial of that mode; with no computation open it
is a `SequenceError` and writes nothing. -/
def Obligations.ByteShiftsEightTimes : Prop :=
  (∀ arg : BitVec 32, decode ((0x21 : BitVec 8) ++ arg) =
    if arg.toNat < 2 ^ 8 then .ok (.byte (arg.extractLsb' 0 8)) else .error .reservedArgBits) ∧
  ∀ (s : State) (b : Byte),
    (s.run = true → s.refIn = false →
      let f := stepMSB s.poly s.w
      exec (.byte b) s = .next
        { s with
          reg := f (f (f (f (f (f (f (f (s.reg ^^^ (b.setWidth 32 <<< (s.w.bits - 8))))))))))
          responses := s.responses ++ [⟨0, 0, 0⟩] }) ∧
    (s.run = true → s.refIn = true →
      let f := stepLSB s.rpoly
      exec (.byte b) s = .next
        { s with
          reg := f (f (f (f (f (f (f (f (s.reg ^^^ b.setWidth 32))))))))
          responses := s.responses ++ [⟨0, 0, 0⟩] }) ∧
    (s.run = false → exec (.byte b) s = .next { s with responses := s.responses ++ [⟨5, 0, 0⟩] })

/-- R87: `FINAL` answers `REG XOR XOROUT` as `W/8` items and closes the computation; the register stays, unreflected;
with no computation open it is a `SequenceError` and writes nothing. -/
def Obligations.FinalAnswersTheChecksum : Prop :=
  (∀ arg : BitVec 32, arg ≠ 0 → decode ((0x22 : BitVec 8) ++ arg) = .error .reservedArgBits) ∧
  decode 0x2200000000 = .ok .final ∧
  ∀ s : State,
    (s.run = true → ∃ (n : BitVec 4) (d : RspData),
      exec .final s = .next { s with run := false, responses := s.responses ++ [⟨0, n, d⟩] } ∧
      8 * n.toNat = s.w.bits ∧ d.toNat = s.reg.toNat ^^^ s.xorOut.toNat) ∧
    (s.run = false → exec .final s = .next { s with responses := s.responses ++ [⟨5, 0, 0⟩] })

/-- R90: every intermediate value of the engine stays below 2^W: no overflow beyond the register width. -/
def Obligations.EngineStaysInWidth : Prop :=
  ∀ (w : Width) (poly r : Word) (b : Byte), r.toNat < 2 ^ w.bits → poly.toNat < 2 ^ w.bits →
    (∀ k, (shiftSteps (stepMSB poly w) k (r ^^^ (b.setWidth 32 <<< (w.bits - 8)))).toNat < 2 ^ w.bits) ∧
    (∀ k, (shiftSteps (stepLSB poly) k (r ^^^ b.setWidth 32)).toNat < 2 ^ w.bits) ∧
    (absorbMSB r b poly w).toNat < 2 ^ w.bits ∧ (absorbLSB r b poly).toNat < 2 ^ w.bits

/-- R92: the reflected mode is the mirror image of the non-reflected mode, for one step and for one byte. -/
def Obligations.ReflectedModeMirrorsOneByte : Prop :=
  ∀ (w : Width) (r poly : Word) (b : Byte), r.toNat < 2 ^ w.bits → poly.toNat < 2 ^ w.bits →
    stepLSB (reflect poly w) (reflect r w) = reflect (stepMSB poly w r) w ∧
    absorbLSB (reflect r w) b (reflect poly w) =
      reflect (absorbMSB r ((reflect (b.setWidth 32) .w8).setWidth 8) poly w) w

/-- R92 over whole messages: a reflected-mode computation holds, at every byte boundary, the bit-reversal of the register
of a non-reflected computation from the reflected initial value over the reflected bytes. -/
def Obligations.ReflectedModeMirrorsMessages : Prop :=
  ∀ (sp : Spec) (data : List Byte), sp.refIn = true → sp.poly.toNat < 2 ^ sp.w.bits → sp.init.toNat < 2 ^ sp.w.bits →
    absorbAll sp sp.init data =
      reflect
        (absorbAll { sp with refIn := false } (reflect sp.init sp.w)
          (data.map fun b => (reflect (b.setWidth 32) .w8).setWidth 8)) sp.w

/-- Item 3 of R93: absorbing a byte is linear, in both modes, and for width 8 the byte may be put into the register. -/
def Obligations.AbsorptionIsLinear : Prop :=
  (∀ (w : Width) (poly r r' : Word) (b b' : Byte), r.toNat < 2 ^ w.bits → r'.toNat < 2 ^ w.bits → poly.toNat < 2 ^ w.bits →
    absorbMSB (r ^^^ r') (b ^^^ b') poly w = absorbMSB r b poly w ^^^ absorbMSB r' b' poly w ∧
    absorbLSB (r ^^^ r') (b ^^^ b') poly = absorbLSB r b poly ^^^ absorbLSB r' b' poly) ∧
  (∀ (poly r : Word) (b : Byte), absorbMSB r b poly .w8 = absorbMSB (r ^^^ b.setWidth 32) 0 poly .w8)

/-- The glossary's "checksum computed by polynomial division over a bit stream" (00_scope.md R9, 42_engine.md R90), for
the non-reflected mode: read as polynomials over GF(2), the register after a message is the remainder of
`init * X^(8n) + message * X^W` on division by `X^W + poly`. -/
def Obligations.RegisterIsPolynomialRemainder : Prop :=
  let toPoly (k : Nat) (v : Nat) : Polynomial (ZMod 2) :=
    ∑ i ∈ Finset.range k, if v.testBit i then Polynomial.X ^ i else 0
  ∀ (sp : Spec) (data : List Byte), sp.refIn = false → sp.poly.toNat < 2 ^ sp.w.bits → sp.init.toNat < 2 ^ sp.w.bits →
    toPoly 32 (absorbAll sp sp.init data).toNat =
      (toPoly 32 sp.init.toNat * Polynomial.X ^ (8 * data.length) +
        (data.foldl (fun m d => m * Polynomial.X ^ 8 + toPoly 8 d.toNat) 0) * Polynomial.X ^ sp.w.bits) %ₘ
      (Polynomial.X ^ sp.w.bits + toPoly 32 sp.poly.toNat)

/-- R88: from any state with no computation open, loading a well-formed symmetric spec and then presenting `START`, the
bytes and `FINAL` answers `OK` to every command, and the `FINAL` response is `Compute(spec, data)`. -/
def Obligations.LoadThenComputeAnswersCompute : Prop :=
  ∀ (s : State) (sp : Spec) (data : List Byte), s.run = false →
    sp.poly.toNat < 2 ^ sp.w.bits → sp.init.toNat < 2 ^ sp.w.bits → sp.xorOut.toNat < 2 ^ sp.w.bits →
    ∃ (t : State) (rs : List Response),
      sendAll (loadSpecSeq (BitVec.ofNat 8 sp.w.bits) sp.poly sp.init sp.refIn sp.refIn sp.xorOut ++ computeSeq data) s =
        .next t ∧
      t.responses = s.responses ++ rs ∧ rs.length = data.length + 7 ∧ (∀ r ∈ rs, r.st = 0) ∧
      rs.getLast? = some ⟨0, BitVec.ofNat 4 sp.w.bytes, zext64 (compute sp data)⟩ ∧
      t.run = false ∧ t.specv = true ∧ t.activeSpec = sp

/-- R91, with R37 and R15: between a `START` and its `FINAL`, whatever other commands are interleaved (parser, staging,
reflector, formatter, even a refused `LDSPEC`), the `FINAL` response is `Compute` of the loaded spec over the bytes given
since the `START`, and of nothing else. (An illegal word is no command; it changes no register: `StepAnswersIllegalWord`.) -/
def Obligations.FinalDependsOnlyOnSpecAndBytes : Prop :=
  ∀ (s : State) (is : List Instr), s.Inv → s.specv = true → (∀ i ∈ is, i ≠ .start ∧ i ≠ .final) →
    ∃ (t : State) (rs : List Response),
      sendAll (.start :: (is ++ [.final])) s = .next t ∧
      t.responses = s.responses ++ rs ∧ rs.length = is.length + 2 ∧
      rs.getLast? = some ⟨0, BitVec.ofNat 4 s.w.bytes, zext64 (compute s.activeSpec (bytesOf is))⟩ ∧
      t.run = false ∧ t.activeSpec = s.activeSpec

/-- R89: over the empty byte sequence the result is `INIT XOR XOROUT`, for every spec and in both modes, and on the block
`START` then `FINAL` answers it. -/
def Obligations.EmptyMessageAnswersInitXorOut : Prop :=
  (∀ sp : Spec, compute sp [] = sp.init ^^^ sp.xorOut) ∧
  (∀ s : State, s.specv = true →
    ∃ t, sendAll [.start, .final] s = .next t ∧
      t.responses = s.responses ++
        [⟨0, 0, 0⟩, ⟨0, BitVec.ofNat 4 s.w.bytes, (s.init ^^^ s.xorOut).setWidth 64⟩])

/-! ## The Hex/Byte Codec (43_hex_codec.md) -/

/-- R100, R104: the classes of the 256 character codes, and the digit characters the formatter prints. -/
def Obligations.CharacterClasses : Prop :=
  (∀ c : Byte, isSep c = true ↔ c.toNat = 0x20) ∧
  (∀ (c : Byte) (d : BitVec 4), hexVal c = some d ↔
    (0x30 ≤ c.toNat ∧ c.toNat ≤ 0x39 ∧ d.toNat = c.toNat - 0x30) ∨
    (0x41 ≤ c.toNat ∧ c.toNat ≤ 0x46 ∧ d.toNat = c.toNat - 0x37) ∨
    (0x61 ≤ c.toNat ∧ c.toNat ≤ 0x66 ∧ d.toNat = c.toNat - 0x57)) ∧
  (∀ d : BitVec 4, (hexDigit d).toNat = if d.toNat ≤ 9 then 0x30 + d.toNat else 0x37 + d.toNat)

/-- R101: what `HEXCH` does in each of its cases: a text that has failed stays failed; a separator changes nothing; the
first digit of a pair is kept; the second answers the byte; any other character fails the text. -/
def Obligations.HexchFollowsItsRule : Prop :=
  (∀ arg : BitVec 32, decode ((0x40 : BitVec 8) ++ arg) =
    if arg.toNat < 2 ^ 8 then .ok (.hexch (arg.extractLsb' 0 8)) else .error .reservedArgBits) ∧
  (∀ (s : State) (c : Byte),
    (s.hfail = true → exec (.hexch c) s = .next { s with responses := s.responses ++ [⟨1, 0, 0⟩] }) ∧
    (s.hfail = false → c = 0x20 →
      exec (.hexch c) s = .next { s with responses := s.responses ++ [⟨0, 0, 0⟩] }) ∧
    (∀ d, s.hfail = false → hexVal c = some d → s.hhalf = false →
      exec (.hexch c) s =
        .next { s with hnib := d, hhalf := true, responses := s.responses ++ [⟨0, 0, 0⟩] }) ∧
    (∀ d, s.hfail = false → hexVal c = some d → s.hhalf = true →
      exec (.hexch c) s =
        .next { s with
          hhalf := false
          responses := s.responses ++ [⟨0, 1, BitVec.ofNat 64 (s.hnib.toNat * 16 + d.toNat)⟩] }) ∧
    (s.hfail = false → c ≠ 0x20 → hexVal c = none →
      exec (.hexch c) s = .next { s with hfail := true, responses := s.responses ++ [⟨1, 0, 0⟩] }))

/-- R102: `HEXEND` clears both flags on success and on failure alike, and answers `MalformedHexInput` exactly when the
text had failed or a digit is left over. -/
def Obligations.HexendGivesTheVerdict : Prop :=
  (∀ arg : BitVec 32, arg ≠ 0 → decode ((0x41 : BitVec 8) ++ arg) = .error .reservedArgBits) ∧
  decode 0x4100000000 = .ok .hexend ∧
  ∀ s : State,
    (s.hfail = true ∨ s.hhalf = true →
      exec .hexend s = .next { s with hfail := false, hhalf := false, responses := s.responses ++ [⟨1, 0, 0⟩] }) ∧
    (s.hfail = false → s.hhalf = false →
      exec .hexend s = .next { s with hfail := false, hhalf := false, responses := s.responses ++ [⟨0, 0, 0⟩] })

/-- R103: on the block, from the rest state, `PARSEHEX text` computes `ParseHex(text)`: the `HEXEND` response is
`MalformedHexInput` exactly when `ParseHex` is an error, and else every response is `OK` and the bytes of the responses
with one item are the result; the converter is at rest again and no other register has changed. -/
def Obligations.BlockParsesHexText : Prop :=
  ∀ (s : State) (text : Text), s.ParserAtRest →
    ∃ (t : State) (rs : List Response),
      sendAll (parseHexSeq text) s = .next t ∧
      t.responses = s.responses ++ rs ∧ rs.length = text.length + 1 ∧
      (match parseHex text with
        | .error e => e = .malformedHexInput ∧ rs.getLast? = some ⟨1, 0, 0⟩
        | .ok bytes => (∀ r ∈ rs, r.st = 0) ∧
            (rs.filter fun r => r.n == 1).map (fun r => r.data.extractLsb' 0 8) = bytes) ∧
      t = { s with hnib := t.hnib, responses := t.responses }

/-- R103, R113: `ParseHex` rejects a text with any character outside `[0-9a-fA-F ]` and a text with an odd number of
digits, accepts every other text, and gives half as many bytes as there are digits, the first digit of each pair the
high nibble; separators do not matter. -/
def Obligations.ParseHexIsStrict : Prop :=
  ∀ text : Text,
    ((∃ c ∈ text, c ≠ 0x20 ∧ hexVal c = none) → parseHex text = .error .malformedHexInput) ∧
    ((text.countP fun c => (hexVal c).isSome) % 2 = 1 → parseHex text = .error .malformedHexInput) ∧
    ((∀ c ∈ text, c = 0x20 ∨ hexVal c ≠ none) → (text.countP fun c => (hexVal c).isSome) % 2 = 0 →
      ∃ bytes, parseHex text = .ok bytes ∧ (2 * bytes.length = text.countP fun c => (hexVal c).isSome) ∧
        ∀ (k : Nat) (hi lo : BitVec 4), (text.filterMap hexVal)[2 * k]? = some hi →
          (text.filterMap hexVal)[2 * k + 1]? = some lo → bytes[k]? = some (BitVec.ofNat 8 (hi.toNat * 16 + lo.toNat))) ∧
    parseHex (text.filter fun c => c != 0x20) = parseHex text

/-- R106 to R111, R114: each `FMT` command answers the text of its value, character by character: character `k` is the
hex digit of the nibble that the display order puts at place `k`; every register is unchanged; it is allowed in every
state; a value wider than the command is illegal. -/
def Obligations.FmtCommandsAnswerTheText : Prop :=
  (∀ (s : State) (v : BitVec 8),
    (∃ d : RspData, exec (.fmt1be v) s = .next { s with responses := s.responses ++ [⟨0, 2, d⟩] } ∧
      d.toNat < 2 ^ 16 ∧ ∀ k, k < 2 → d.extractLsb' (8 * k) 8 = hexDigit (v.extractLsb' (4 * (1 - k)) 4)) ∧
    (∃ d : RspData, exec (.fmt1le v) s = .next { s with responses := s.responses ++ [⟨0, 2, d⟩] } ∧
      d.toNat < 2 ^ 16 ∧ ∀ k, k < 2 → d.extractLsb' (8 * k) 8 = hexDigit (v.extractLsb' (4 * (1 - k)) 4))) ∧
  (∀ (s : State) (v : BitVec 16),
    (∃ d : RspData, exec (.fmt2be v) s = .next { s with responses := s.responses ++ [⟨0, 4, d⟩] } ∧
      d.toNat < 2 ^ 32 ∧ ∀ k, k < 4 → d.extractLsb' (8 * k) 8 = hexDigit (v.extractLsb' (4 * (3 - k)) 4)) ∧
    (∃ d : RspData, exec (.fmt2le v) s = .next { s with responses := s.responses ++ [⟨0, 4, d⟩] } ∧
      d.toNat < 2 ^ 32 ∧ ∀ j, j < 2 →
        d.extractLsb' (16 * j) 8 = hexDigit (v.extractLsb' (8 * j + 4) 4) ∧
        d.extractLsb' (16 * j + 8) 8 = hexDigit (v.extractLsb' (8 * j) 4))) ∧
  (∀ (s : State) (v : BitVec 32),
    (∃ d : RspData, exec (.fmt4be v) s = .next { s with responses := s.responses ++ [⟨0, 8, d⟩] } ∧
      ∀ k, k < 8 → d.extractLsb' (8 * k) 8 = hexDigit (v.extractLsb' (4 * (7 - k)) 4)) ∧
    (∃ d : RspData, exec (.fmt4le v) s = .next { s with responses := s.responses ++ [⟨0, 8, d⟩] } ∧
      ∀ j, j < 4 →
        d.extractLsb' (16 * j) 8 = hexDigit (v.extractLsb' (8 * j + 4) 4) ∧
        d.extractLsb' (16 * j + 8) 8 = hexDigit (v.extractLsb' (8 * j) 4))) ∧
  (∀ arg : BitVec 32,
    decode ((0x50 : BitVec 8) ++ arg) =
      (if arg.toNat < 2 ^ 8 then .ok (.fmt1be (arg.extractLsb' 0 8)) else .error .reservedArgBits) ∧
    decode ((0x51 : BitVec 8) ++ arg) =
      (if arg.toNat < 2 ^ 8 then .ok (.fmt1le (arg.extractLsb' 0 8)) else .error .reservedArgBits) ∧
    decode ((0x52 : BitVec 8) ++ arg) =
      (if arg.toNat < 2 ^ 16 then .ok (.fmt2be (arg.extractLsb' 0 16)) else .error .reservedArgBits) ∧
    decode ((0x53 : BitVec 8) ++ arg) =
      (if arg.toNat < 2 ^ 16 then .ok (.fmt2le (arg.extractLsb' 0 16)) else .error .reservedArgBits) ∧
    decode ((0x54 : BitVec 8) ++ arg) = .ok (.fmt4be arg) ∧
    decode ((0x55 : BitVec 8) ++ arg) = .ok (.fmt4le arg))

/-- Parsing the formatted text of a value gives its bytes in display order: most-significant byte first for
big-endian display, least-significant first for little-endian display; the text holds no separator and no lower-case
letter. For values that fit the size this is the round trip of 43_hex_codec.md section 4; that of a wider value the low
bytes are printed is the model's choice (log entry 8). -/
def Obligations.FormattedTextParsesBack : Prop :=
  ∀ (v : Word) (w : Width) (le : Bool),
    parseHex (formatHex v w le) =
      .ok ((List.range w.bytes).map fun j => v.extractLsb' (8 * (if le then j else w.bytes - 1 - j)) 8) ∧
    ∀ c ∈ formatHex v w le, c ≠ 0x20 ∧ ¬ (0x61 ≤ c.toNat ∧ c.toNat ≤ 0x66)

/-! ## Errors (60_exceptions.md) -/

/-- R140: the seven codes, and that a host reads each kind back from its code. -/
def Obligations.StatusCodes : Prop :=
  okCode = 0 ∧ errorCode .malformedHexInput = 1 ∧ errorCode .unknownAlgorithm = 2 ∧ errorCode .invalidSpec = 3 ∧
  errorCode .unsupportedSpec = 4 ∧ errorCode .sequenceError = 5 ∧ errorCode .illegalCommand = 6 ∧
  ∀ e, errorOfCode (errorCode e) = some e

/-- R141, R143 to R146, R142: which words in which states are answered with each error code, exactly, and what each such
command writes; code 2 and codes above 6 are answered to none. -/
def Obligations.ErrorsHaveExactlyTheseCauses : Prop :=
  ∀ (s t : State) (w : CmdWord) (r : Response), runWord w s = .next t → t.responses = s.responses ++ [r] →
    let n := (s.rowCtrl.extractLsb' 0 8).toNat
    let fits := (n = 8 ∨ n = 16 ∨ n = 32) ∧ s.rowPoly.toNat < 2 ^ n ∧ s.rowInit.toNat < 2 ^ n ∧ s.rowXor.toNat < 2 ^ n
    (r.st = 1 ↔
      (∃ c, decode w = .ok (.hexch c) ∧ (s.hfail = true ∨ (c ≠ 0x20 ∧ hexVal c = none))) ∨
      (decode w = .ok .hexend ∧ (s.hfail = true ∨ s.hhalf = true))) ∧
    r.st ≠ 2 ∧
    (r.st = 3 ↔ decode w = .ok .ldspec ∧ s.run = false ∧ ¬ fits) ∧
    (r.st = 4 ↔ decode w = .ok .ldspec ∧ s.run = false ∧ fits ∧ s.rowCtrl.getLsbD 8 ≠ s.rowCtrl.getLsbD 9) ∧
    (r.st = 5 ↔
      (decode w = .ok .start ∧ s.specv = false) ∨ ((∃ b, decode w = .ok (.byte b)) ∧ s.run = false) ∨
      (decode w = .ok .final ∧ s.run = false) ∨ (decode w = .ok .ldspec ∧ s.run = true)) ∧
    (r.st = 6 ↔ ∀ i, decode w ≠ .ok i) ∧
    r.st.toNat ≤ 6 ∧
    (3 ≤ r.st.toNat → t = { s with responses := t.responses }) ∧
    (r.st = 1 →
      ((∃ c, decode w = .ok (.hexch c)) ∧ t = { s with hfail := true, responses := t.responses }) ∨
      (decode w = .ok .hexend ∧ t = { s with hfail := false, hhalf := false, responses := t.responses }))

/-- R148: a failing command writes no state, except that `HEXCH` on an invalid character sets `HFAIL` and `HEXEND` clears
`HFAIL` and `HHALF`, and its response has the code and nothing else. -/
def Obligations.FailingCommandWritesNoState : Prop :=
  ∀ (s t : State) (w : CmdWord) (r : Response),
    runWord w s = .next t → t.responses = s.responses ++ [r] → r.st ≠ 0 →
      r.n = 0 ∧ r.data = 0 ∧
      ((t = { s with responses := t.responses }) ∨
        (∃ c, decode w = .ok (.hexch c) ∧ s.hfail = false ∧ c ≠ 0x20 ∧ hexVal c = none ∧
          t = { s with hfail := true, responses := t.responses }) ∨
        (decode w = .ok .hexend ∧ t = { s with hfail := false, hhalf := false, responses := t.responses }))

/-- R149: presenting the same failing command again gives the same error, unless it is `HEXEND`, which has closed the
text it reported. -/
def Obligations.SameFailureRepeats : Prop :=
  ∀ (s t : State) (i : Instr) (r : Response), i ≠ .hexend →
    exec i s = .next t → t.responses = s.responses ++ [r] → r.st ≠ 0 →
      exec i t = .next { t with responses := t.responses ++ [r] }

/-! ## Frames and whole-machine rules (10_state.md, 20_memory.md) -/

/-- R37, R10: what each unit can write at all. The parser writes only its three registers, a staging command only the
staging registers, `LDSPEC` only the active spec, `RPOLY` and `SPECV`, the engine only `REG` and `RUN`, and the stateless
units nothing. -/
def Obligations.EachUnitWritesOnlyItsRegisters : Prop :=
  ∀ (i : Instr) (s t : State), exec i s = .next t →
    (i.isParser = true →
      t = { s with hnib := t.hnib, hhalf := t.hhalf, hfail := t.hfail, responses := t.responses }) ∧
    (i.isStaging = true →
      t = { s with rowCtrl := t.rowCtrl, rowPoly := t.rowPoly, rowInit := t.rowInit, rowXor := t.rowXor,
                   responses := t.responses }) ∧
    (i = .ldspec →
      t = { s with specv := t.specv, w := t.w, poly := t.poly, init := t.init, xorOut := t.xorOut, refIn := t.refIn,
                   refOut := t.refOut, rpoly := t.rpoly, responses := t.responses }) ∧
    (i.isEngine = true → t = { s with reg := t.reg, run := t.run, responses := t.responses }) ∧
    (i.isStateless = true → t = { s with responses := t.responses })

/-- R37: a parser command answers the same whatever the engine, the active spec and the staged row hold, and every other
command answers the same, and leaves the same registers, whatever the parser holds. -/
def Obligations.ParserAndEngineDoNotSeeEachOther : Prop :=
  ∀ (i : Instr) (s u t v : State), exec i s = .next t → exec i u = .next v →
    (i.isParser = true → s.hnib = u.hnib → s.hhalf = u.hhalf → s.hfail = u.hfail →
      newResponses s t = newResponses u v ∧ t.hnib = v.hnib ∧ t.hhalf = v.hhalf ∧ t.hfail = v.hfail) ∧
    (i.isParser = false → u = { s with hnib := u.hnib, hhalf := u.hhalf, hfail := u.hfail } →
      newResponses s t = newResponses u v ∧ v = { t with hnib := u.hnib, hhalf := u.hhalf, hfail := u.hfail })

/-- R13: `SPECV` is set only by a successful `LDSPEC` and cleared only by reset, whatever the step. -/
def Obligations.SpecvChangesOnlyByLdspecAndReset : Prop :=
  ∀ s t : State, step s = .next t →
    (s.specv = true → t.specv = false →
      (∃ c rest, s.port = .assertReset c :: rest) ∨ (∃ rest, s.port = .releaseReset :: rest ∧ s.inReset = true)) ∧
    (s.specv = false → t.specv = true →
      ∃ w rest, s.port = .command w :: rest ∧ s.inReset = false ∧ decode w = .ok .ldspec ∧
        t.responses = s.responses ++ [⟨0, 0, 0⟩])

/-- R15: `RUN` is set only by a successful `START` and cleared only by a successful `FINAL` or by reset, and while it
stays set the active spec cannot change. -/
def Obligations.RunGuardsTheActiveSpec : Prop :=
  ∀ s t : State, step s = .next t →
    (s.run = false → t.run = true →
      ∃ w rest, s.port = .command w :: rest ∧ s.inReset = false ∧ decode w = .ok .start ∧ s.specv = true) ∧
    (s.run = true → t.run = false →
      (∃ w rest, s.port = .command w :: rest ∧ decode w = .ok .final) ∨
      (∃ c rest, s.port = .assertReset c :: rest) ∨ (∃ rest, s.port = .releaseReset :: rest ∧ s.inReset = true)) ∧
    (s.run = true → t.run = true →
      t.activeSpec = s.activeSpec ∧ t.refOut = s.refOut ∧ t.rpoly = s.rpoly ∧ t.specv = s.specv)

/-- Item 4 of R22: a text is opened by `HEXCH` and by nothing else, and `HEXEND` always closes it. -/
def Obligations.OnlyHexchOpensAText : Prop :=
  ∀ (i : Instr) (s t : State), exec i s = .next t →
    ((∀ c, i ≠ .hexch c) → s.ParserAtRest → t.ParserAtRest) ∧ (i = .hexend → t.ParserAtRest)

/-- Items 2 and 3 of R22 hold at reset. -/
def Obligations.InvHoldsAtReset : Prop :=
  State.reset.Inv ∧ State.reset.Quiescent

/-- Items 2 and 3 of R22 are kept by every step: while a spec is loaded its values fit its width, its flags agree and
`RPOLY` is the reflected polynomial; while a computation is open a spec is loaded and `REG` fits the width. -/
def Obligations.StepKeepsInv : Prop :=
  ∀ s t : State, s.Inv → step s = .next t → t.Inv

/-- Item 5 of R22: from two states that differ only in what the spec leaves unobservable (the active spec while
`SPECV` is 0, `REG` while `RUN` is 0, `HNIB` while no nibble is pending, the parser's nibble after a failed character),
a step takes both to states that again agree, and the responses are the same. -/
def Obligations.UnspecifiedRegistersStayUnobservable : Prop :=
  ∀ s u : State, s.Inv → u.Inv → s.SameView u →
    ∃ t v, step s = .next t ∧ step u = .next v ∧ t.SameView v ∧ t.responses = v.responses

/-- R23 and item 5 of R22, from reset: whatever the nine unspecified registers hold after reset, every sequence of
inputs is answered alike. (So no response depends on the values log entry 1 names.) -/
def Obligations.ResetValuesOfUnspecifiedRegistersAreUnobservable : Prop :=
  ∀ (w : Width) (poly init xorOut rpoly reg : Word) (refIn refOut : Bool) (hnib : BitVec 4)
    (inputs : List PortEvent) (k : Nat),
    ∃ t v,
      core.run k { State.reset with port := inputs } = .next t ∧
      core.run k { State.reset with
        port := inputs, w := w, poly := poly, init := init, xorOut := xorOut, rpoly := rpoly, reg := reg,
        refIn := refIn, refOut := refOut, hnib := hnib } = .next v ∧
      t.responses = v.responses

/-! ## Host procedures (44_host_procedures.md) -/

/-- R122: `IngestRow` accepts a row exactly when it is well-formed, unchanged; and loading a row on the block has the outcome
the row's numbers give: `InvalidSpec` exactly when `IngestRow` refuses it, else `UnsupportedSpec` if the flags differ, else the
row becomes the active spec. A rejected row does not enter the table and leaves it, and what other rows give, as they are; the
table formed from supplied rows is the accepted ones, each as often as it is supplied, in their order. Two clauses rest on
choices of the model: a row whose numbers do not fit the port is answered without being presented (log entry 6), and an
accepted row enters also where another row has its name and width, of which R122 and N19 state nothing (log entry 14). -/
def Obligations.LoadingARowAgreesWithIngestion : Prop :=
  (∀ row : Row, (ingestRow row = .ok row ↔
      (row.width = 8 ∨ row.width = 16 ∨ row.width = 32) ∧
      row.poly < 2 ^ row.width ∧ row.init < 2 ^ row.width ∧ row.xorOut < 2 ^ row.width) ∧
    (ingestRow row = .ok row ∨ ingestRow row = .error .invalidSpec)) ∧
  (∀ (row : Row) (s : State), s.run = false →
    ∃ (res : Except ErrorKind Unit) (t : State), loadRowOnBlock row s = .next (res, t) ∧
      (res = .error .invalidSpec ↔ ingestRow row = .error .invalidSpec) ∧
      (ingestRow row = .ok row → row.refIn ≠ row.refOut → res = .error .unsupportedSpec) ∧
      (ingestRow row = .ok row → row.refIn = row.refOut →
        res = .ok () ∧ t.specv = true ∧ t.w.bits = row.width ∧ t.poly.toNat = row.poly ∧ t.init.toNat = row.init ∧
        t.xorOut.toNat = row.xorOut ∧ t.refIn = row.refIn ∧ t.refOut = row.refOut) ∧
      t.run = false ∧ t.hhalf = s.hhalf ∧ t.hfail = s.hfail) ∧
  (∀ (table : Table) (row : Row),
    (ingestRow row = .error .invalidSpec → admitRow table row = (.error .invalidSpec, table)) ∧
    (ingestRow row = .ok row → admitRow table row = (.ok (), table ++ [row]))) ∧
  (∀ rows : List Row,
    TableIngested (formTable rows) ∧ (formTable rows).Sublist rows ∧
    (∀ row ∈ rows, ingestRow row = .ok row → row ∈ formTable rows) ∧
    formTable rows = rows.filter fun row => (ingestRow row).isOk) ∧
  (∀ (before after : List Row) (row : Row), ingestRow row = .error .invalidSpec →
    formTable (before ++ row :: after) = formTable (before ++ after))

/-- R123, R142: with no row of that name and width the answer is `UnknownAlgorithm` and no command is sent; else the
first such row decides, and for a well-formed symmetric one the answer is `Compute`. -/
def Obligations.DispatchUsesTheFirstMatchingRow : Prop :=
  ∀ (table : Table) (name : Text) (wc : Width) (data : List Byte),
    ((∀ row ∈ table, ¬ (row.name = name ∧ row.width = wc.bits)) →
      dispatch table name wc data = .error .unknownAlgorithm ∧
      ∀ s, dispatchOnBlock table name wc data s = .next (.error .unknownAlgorithm, s)) ∧
    (∀ (before after : Table) (row : Row) (sp : Spec), table = before ++ row :: after →
      (∀ r ∈ before, ¬ (r.name = name ∧ r.width = wc.bits)) → row.name = name → row.width = wc.bits →
      specOfRow row = .ok sp → dispatch table name wc data = .ok (compute sp data) ∧ sp.w = wc)

/-- R124: the names of the rows of that width, in table order. -/
def Obligations.ListAlgorithmsKeepsTableOrder : Prop :=
  ∀ (t u : Table) (wc : Width) (row : Row),
    listAlgorithms [] wc = [] ∧ listAlgorithms (t ++ u) wc = listAlgorithms t wc ++ listAlgorithms u wc ∧
    listAlgorithms [row] wc = if row.width = wc.bits then [row.name] else []

/-- R125: run on the block from any quiescent state, for any table, the procedure answers what the pure function
`ComputeChecksum` answers, errors and their priority included, and leaves the block quiescent. (For rows the engine
cannot compute with, both report what `LDSPEC` answers: log entry 6.) -/
def Obligations.BlockComputesChecksums : Prop :=
  ∀ (table : Table) (name : Text) (wc : Width) (text : Text) (le : Bool) (s : State), s.Quiescent →
    ∃ t, computeChecksumOnBlock table name wc text le s = .next (computeChecksum table name wc text le, t) ∧
      t.Quiescent ∧ t.port = s.port ∧ t.inReset = s.inReset

/-- R125, D26: the stages run in the order parse, look up, compute, format, so a malformed text is reported whatever the
name. -/
def Obligations.ChecksumStagesRunInOrder : Prop :=
  ∀ (table : Table) (name : Text) (wc : Width) (text : Text) (le : Bool),
    (∀ e, parseHex text = .error e → computeChecksum table name wc text le = .error .malformedHexInput) ∧
    (∀ bytes, parseHex text = .ok bytes → lookUp table name wc = none →
      computeChecksum table name wc text le = .error .unknownAlgorithm) ∧
    (∀ bytes c, parseHex text = .ok bytes → dispatch table name wc bytes = .ok c →
      computeChecksum table name wc text le = .ok (formatHex c wc le))
end

