-- ==== Sys2Proof/Laws/Datapath.lean ====
section
/-! SUPPORT. Small facts about the datapath: widths, masks, the reflector's loop, repeated shift steps, packing of items,
characters and digits. -/

namespace Sys2Proof

theorem Width.bits_le (w : Width) : w.bits ≤ 32 := by cases w <;> decide

theorem Width.eight_le_bits (w : Width) : 8 ≤ w.bits := by cases w <;> decide

theorem Width.bits_eq_bytes (w : Width) : w.bits = 8 * w.bytes := by cases w <;> rfl

/-- The widths are exactly 8, 16 and 32 (R60). -/
theorem widthOfBits_eq_some {n : Nat} {w : Width} : widthOfBits n = some w ↔ n = w.bits := by
  unfold widthOfBits
  constructor
  · intro h
    split at h
    · cases h; assumption
    · split at h
      · cases h; assumption
      · split at h
        · cases h; assumption
        · cases h
  · rintro rfl
    cases w <;> rfl

theorem widthOfBits_eq_none {n : Nat} : widthOfBits n = none ↔ n ≠ 8 ∧ n ≠ 16 ∧ n ≠ 32 := by
  unfold widthOfBits
  split <;> [skip; (split <;> [skip; split])] <;> simp_all

end Sys2Proof

namespace Sys2Proof.Machine

open Sys2Proof

/-- `WellFormed` (R60), with the width it names. -/
theorem wellFormedWidth_eq_some {width poly init xorOut : Nat} {w : Width} :
    wellFormedWidth width poly init xorOut = some w ↔
      width = w.bits ∧ poly < 2 ^ w.bits ∧ init < 2 ^ w.bits ∧ xorOut < 2 ^ w.bits := by
  unfold wellFormedWidth
  constructor
  · intro h
    split at h
    · cases h
    · split at h
      · cases h
        exact ⟨widthOfBits_eq_some.mp ‹_›, ‹_›⟩
      · cases h
  · rintro ⟨hw, h⟩
    rw [widthOfBits_eq_some.mpr hw]
    simp [h]

theorem mask_getLsbD (w : Width) (i : Nat) : (mask w).getLsbD i = decide (i < w.bits) := by
  have hb := w.bits_le
  simp only [mask, BitVec.getLsbD_ofNat, Nat.testBit_two_pow_sub_one]
  by_cases h : i < w.bits
  · simp [h]; omega
  · simp [h]

theorem one_shiftLeft_getLsbD (m j : Nat) (hm : m < 32) : ((1 : Word) <<< m).getLsbD j = decide (j = m) := by
  by_cases h : j = m
  · subst h
    simp [hm]
  · by_cases h' : j < m
    · simp [BitVec.getLsbD_shiftLeft, h, h']
    · have h1 : j - m ≠ 0 := by omega
      simp [BitVec.getLsbD_shiftLeft, h, h1]

/-- The reflector's loop: after the bits below `k`, result bit `j` is value bit `n-1-j` if that bit has been seen. -/
theorem reflectBelow_getLsbD (v : Word) (n k : Nat) (hn : n ≤ 32) (hk : k ≤ n) (j : Nat) :
    (reflectBelow v n k).getLsbD j = (decide (j < n ∧ n - 1 - j < k) && v.getLsbD (n - 1 - j)) := by
  induction k with
  | zero => simp [reflectBelow]
  | succ k ih =>
    have step : (reflectBelow v n (k + 1)).getLsbD j =
        ((reflectBelow v n k).getLsbD j || (v.getLsbD k && decide (j = n - 1 - k))) := by
      show (if v.getLsbD k then reflectBelow v n k ||| (1 : Word) <<< (n - 1 - k) else reflectBelow v n k).getLsbD j = _
      cases v.getLsbD k
      · simp
      · rw [if_pos rfl, BitVec.getLsbD_or, one_shiftLeft_getLsbD _ _ (by omega)]
        simp
    rw [step, ih (by omega)]
    by_cases hj : j = n - 1 - k
    · have hk' : n - 1 - j = k := by omega
      rw [hk', decide_eq_true hj]
      simp [show j < n by omega]
    · have heq : (j < n ∧ n - 1 - j < k + 1) ↔ (j < n ∧ n - 1 - j < k) := by omega
      simp only [heq, hj, decide_false, Bool.and_false, Bool.or_false]

theorem shiftSteps_zero (f : Word → Word) (r : Word) : shiftSteps f 0 r = r := rfl

theorem shiftSteps_succ (f : Word → Word) (n : Nat) (r : Word) : shiftSteps f (n + 1) r = shiftSteps f n (f r) := rfl

/-- What one step keeps, repeated steps keep. -/
theorem shiftSteps_keeps (P : Word → Prop) (f : Word → Word) (hf : ∀ r, P r → P (f r)) (n : Nat) (r : Word) (h : P r) :
    P (shiftSteps f n r) := by
  induction n generalizing r with
  | zero => exact h
  | succ n ih => exact ih _ (hf _ h)

/-- What relates one step to another relates their repetitions. -/
theorem shiftSteps_related (R : Word → Word → Prop) (f g : Word → Word) (hfg : ∀ r q, R r q → R (f r) (g q)) (n : Nat)
    (r q : Word) (h : R r q) : R (shiftSteps f n r) (shiftSteps g n q) := by
  induction n generalizing r q with
  | zero => exact h
  | succ n ih => exact ih _ _ (hfg _ _ h)

/-- A bit of packed items: bit `j` belongs to item `j / 8`. -/
theorem pack_cons_getLsbD (c : Byte) (cs : List Byte) (j : Nat) (hj : j < 64) :
    (pack (c :: cs)).getLsbD j = if j < 8 then c.getLsbD j else (pack cs).getLsbD (j - 8) := by
  simp only [pack, BitVec.getLsbD_or, BitVec.getLsbD_shiftLeft, BitVec.getLsbD_setWidth]
  split
  · simp [*]
  · have : c.getLsbD j = false := BitVec.getLsbD_of_ge _ _ (by omega)
    simp [*]

/-- Item `k` of packed items is the `k`-th item (R39). -/
theorem itemOf_pack (cs : List Byte) (k : Nat) (hk : k < cs.length) (h8 : k < 8) : itemOf (pack cs) k = cs[k] := by
  induction cs generalizing k with
  | nil => simp at hk
  | cons c cs ih =>
    ext i hi
    rw [itemOf, BitVec.getElem_extractLsb', pack_cons_getLsbD _ _ _ (by omega)]
    cases k with
    | zero => simp [hi]
    | succ k =>
      have := ih k (by simpa using hk) (by omega)
      rw [if_neg (by omega), List.getElem_cons_succ, ← this, itemOf, BitVec.getElem_extractLsb']
      congr 1
      omega

/-- Above the last item there are zeros (R39). -/
theorem pack_getLsbD_of_ge (cs : List Byte) (j : Nat) (hj : 8 * cs.length ≤ j) : (pack cs).getLsbD j = false := by
  induction cs generalizing j with
  | nil => simp [pack]
  | cons c cs ih =>
    by_cases h : j < 64
    · simp only [List.length_cons] at hj
      rw [pack_cons_getLsbD _ _ _ h, if_neg (by omega), ih _ (by omega)]
    · exact BitVec.getLsbD_of_ge _ _ (by omega)

/-- Every hex digit the formatter prints is read back as the same value, and is no separator (R100, R104). -/
theorem hexVal_hexDigit (d : BitVec 4) : hexVal (hexDigit d) = some d ∧ isSep (hexDigit d) = false := by
  revert d
  decide

theorem pairUp_cons_cons (hi lo : BitVec 4) (ds : List (BitVec 4)) :
    pairUp (hi :: lo :: ds) = (hi ++ lo) :: pairUp ds := rfl

/-- The two nibbles of a byte put together again. -/
theorem nibbles_append (b : Byte) : b.extractLsb' 4 4 ++ b.extractLsb' 0 4 = b := by
  revert b
  decide

end Sys2Proof.Machine
end

