-- ==== Sys2Proof/Laws/Encoding.lean ====
section
/-! SUPPORT. The pieces of the encoding: the fields of a word, the opcode table read both ways, and that the operand of
every command passes the checks of Sys2Proof/WellFormed.lean. -/

namespace Sys2Proof

/-- A bit of a word put together from its two fields. -/
theorem cmdWord_getLsbD (op : BitVec 8) (arg : Word) (i : Nat) :
    (op ++ arg : CmdWord).getLsbD i = if i < 32 then arg.getLsbD i else op.getLsbD (i - 32) :=
  BitVec.getLsbD_append

@[simp] theorem opField_append (op : BitVec 8) (arg : Word) : opField (op ++ arg) = op := by
  ext i hi
  rw [opField, BitVec.getElem_extractLsb', cmdWord_getLsbD, if_neg (by omega), ← BitVec.getLsbD_eq_getElem]
  congr 1
  omega

@[simp] theorem argField_append (op : BitVec 8) (arg : Word) : argField (op ++ arg) = arg := by
  ext i hi
  rw [argField, BitVec.getElem_extractLsb', cmdWord_getLsbD, if_pos (by omega), ← BitVec.getLsbD_eq_getElem]
  congr 1
  omega

theorem append_fields (w : CmdWord) : opField w ++ argField w = w := by
  apply BitVec.eq_of_getLsbD_eq
  intro i hi
  rw [cmdWord_getLsbD, opField, argField]
  split
  · simp [*]
  · simp [show i - 32 < 8 by omega, show 32 + (i - 32) = i by omega]

/-- The opcode table read one way and back. -/
theorem mnemonicOf_opcodeOf (m : Mnemonic) : mnemonicOf (opcodeOf m) = some m := by
  cases m <;> rfl

/-- The opcode table read the other way. -/
theorem opcodeOf_of_mnemonicOf {op : BitVec 8} {m : Mnemonic} (h : mnemonicOf op = some m) : opcodeOf m = op := by
  have all : ∀ op : BitVec 8, (mnemonicOf op).all (fun m => opcodeOf m == op) = true := by decide
  have := all op
  rw [h] at this
  simpa using this

/-- The ten operand bits of `ROWCTL`, bit by bit (R44). -/
theorem ctlBits_getLsbD (width : Byte) (refIn refOut : Bool) (i : Nat) :
    (ctlBits width refIn refOut).getLsbD i =
      if i < 8 then width.getLsbD i else if i = 8 then refIn else if i = 9 then refOut else false := by
  have h1 : (ctlBits width refIn refOut).getLsbD i =
      if i < 9 then (BitVec.ofBool refIn ++ width : BitVec 9).getLsbD i else (BitVec.ofBool refOut).getLsbD (i - 9) :=
    BitVec.getLsbD_append
  have h2 : (BitVec.ofBool refIn ++ width : BitVec 9).getLsbD i =
      if i < 8 then width.getLsbD i else (BitVec.ofBool refIn).getLsbD (i - 8) :=
    BitVec.getLsbD_append
  rw [h1, h2, BitVec.getLsbD_ofBool, BitVec.getLsbD_ofBool]
  by_cases h8 : i < 8
  · simp [h8, show i < 9 by omega]
  · by_cases h9 : i = 8
    · simp [h9]
    · by_cases h10 : i = 9
      · simp [h10]
      · simp [h8, h9, h10, show ¬ i < 9 by omega, show ¬ i - 9 = 0 by omega]

/-- What decoding can do. -/
theorem decode_cases (w : CmdWord) :
    (mnemonicOf (opField w) = none ∧ decode w = .error .unknownOpcode) ∨
    (∃ m, mnemonicOf (opField w) = some m ∧ argField w &&& ~~~ usedMask m ≠ 0 ∧ decode w = .error .reservedArgBits) ∨
    (∃ m, mnemonicOf (opField w) = some m ∧ argField w &&& ~~~ usedMask m = 0 ∧
      decode w = .ok (build m (argField w))) := by
  unfold decode
  split
  · exact .inl ⟨‹_›, rfl⟩
  · split
    · exact .inr (.inr ⟨_, ‹_›, ‹_›, rfl⟩)
    · exact .inr (.inl ⟨_, ‹_›, ‹_›, rfl⟩)

/-- The command that a mnemonic and an operand build has that mnemonic. -/
theorem build_mnemonic (m : Mnemonic) (arg : Word) : (build m arg).mnemonic = m := by
  cases m <;> rfl

/-- The masks of R43 are the used-bits column of R42. -/
theorem usedMask_eq (m : Mnemonic) : usedMask m = BitVec.ofNat 32 (2 ^ m.usedBits - 1) := by
  cases m <;> rfl

/-- No bit of a value lies outside the bits a command uses exactly where the value fits them (R43). -/
theorem reserved_zero_iff (m : Mnemonic) (v : Word) : v &&& ~~~ usedMask m = 0 ↔ v.toNat < 2 ^ m.usedBits := by
  have hmask : v &&& ~~~ usedMask m = 0 ↔ v &&& usedMask m = v := by
    constructor
    · intro h
      have key : v = v &&& usedMask m ||| v &&& ~~~ usedMask m := by
        ext i
        simp
        cases (usedMask m)[i] <;> simp
      rw [h] at key
      simpa using key.symm
    · intro h
      rw [← h, BitVec.and_assoc]
      simp
  have hand : (v &&& usedMask m).toNat = v.toNat % 2 ^ m.usedBits := by
    have hm : (usedMask m).toNat = 2 ^ m.usedBits - 1 := by cases m <;> rfl
    rw [BitVec.toNat_and, hm, Nat.and_two_pow_sub_one_eq_mod]
  rw [hmask, ← BitVec.toNat_inj, hand]
  exact Nat.mod_eq_iff_lt (by positivity)

/-- What an opcode with a value as its `arg` decodes to: the command where the value fits, and nothing is truncated. -/
theorem decode_operand (m : Mnemonic) (v : Word) :
    decode (opcodeOf m ++ v) =
      if v.toNat < 2 ^ m.usedBits then .ok (build m v) else .error .reservedArgBits := by
  simp only [decode, opField_append, argField_append, mnemonicOf_opcodeOf, reserved_zero_iff]

/-- Every operand fits the bits its command uses. -/
theorem argOf_lt (i : Instr) : (argOf i).toNat < 2 ^ i.mnemonic.usedBits := by
  cases i with
  | rowctl w a b =>
    have h := (ctlBits w a b).isLt
    simp only [argOf, Instr.mnemonic, Mnemonic.usedBits, BitVec.toNat_setWidth]
    omega
  | byte v | refl8 v | hexch v | fmt1be v | fmt1le v =>
    have h := v.isLt
    simp only [argOf, Instr.mnemonic, Mnemonic.usedBits, BitVec.toNat_setWidth]
    omega
  | refl16 v | fmt2be v | fmt2le v =>
    have h := v.isLt
    simp only [argOf, Instr.mnemonic, Mnemonic.usedBits, BitVec.toNat_setWidth]
    omega
  | rowpoly v | rowinit v | rowxor v | refl32 v | fmt4be v | fmt4le v => exact v.isLt
  | ldspec | start | final | hexend => decide

/-- The assembler line of every command is well-formed (R49). -/
theorem listing_wellFormed (i : Instr) : (listing i).wellFormed = true := by
  have h := argOf_lt i
  unfold AsmLine.wellFormed AsmLine.operandPresence AsmLine.operandFits listing
  by_cases hu : i.mnemonic.usedBits = 0 <;> simp_all

end Sys2Proof
end

