-- ==== Sys2Proof/Laws/HostProcs.lean ====
section
/-! SUPPORT. The host procedures: what ingesting a row can do, and the table formed from rows as a filter. -/

namespace Sys2Proof.Machine

open Sys2Proof

/-- What `IngestRow` can do: accept the row unchanged, for the width it names, or answer `InvalidSpec`. -/
theorem ingestRow_cases (row : Row) :
    (∃ w, wellFormedWidth row.width row.poly row.init row.xorOut = some w ∧ ingestRow row = .ok row) ∨
    (wellFormedWidth row.width row.poly row.init row.xorOut = none ∧ ingestRow row = .error .invalidSpec) := by
  unfold ingestRow
  split
  · exact .inr ⟨‹_›, rfl⟩
  · exact .inl ⟨_, ‹_›, rfl⟩

/-- The table after one row is offered: it has grown by the row or it has not changed. -/
theorem admitRow_table (table : Table) (row : Row) :
    (admitRow table row).2 =
      if (wellFormedWidth row.width row.poly row.init row.xorOut).isSome then table ++ [row] else table := by
  unfold admitRow
  obtain ⟨w, hw, hi⟩ | ⟨hw, hi⟩ := ingestRow_cases row <;> simp [hw, hi]

/-- The table formed from some rows is the well-formed ones among them. -/
theorem formTable_eq_filter (rows : List Row) :
    formTable rows =
      rows.filter fun row => (wellFormedWidth row.width row.poly row.init row.xorOut).isSome := by
  suffices h : ∀ table : Table, rows.foldl (fun t row => (admitRow t row).2) table =
      table ++ rows.filter fun row => (wellFormedWidth row.width row.poly row.init row.xorOut).isSome by
    simpa [formTable] using h []
  induction rows with
  | nil => simp
  | cons row rows ih =>
    intro table
    rw [List.foldl_cons, ih, admitRow_table, List.filter_cons]
    split <;> simp

end Sys2Proof.Machine
end

