-- ==== Sys2Proof/Laws/State.lean ====
section
/-! SUPPORT. What each named update does to each field of the state, true by definition, so that no later proof unfolds
a record update. -/

namespace Sys2Proof.Machine

open Sys2Proof

@[simp] theorem respond_rowCtrl (s : State) (st : BitVec 8) (n : BitVec 4) (data : RspData) : (respond st n data s).rowCtrl = s.rowCtrl := rfl
@[simp] theorem respond_rowPoly (s : State) (st : BitVec 8) (n : BitVec 4) (data : RspData) : (respond st n data s).rowPoly = s.rowPoly := rfl
@[simp] theorem respond_rowInit (s : State) (st : BitVec 8) (n : BitVec 4) (data : RspData) : (respond st n data s).rowInit = s.rowInit := rfl
@[simp] theorem respond_rowXor (s : State) (st : BitVec 8) (n : BitVec 4) (data : RspData) : (respond st n data s).rowXor = s.rowXor := rfl
@[simp] theorem respond_specv (s : State) (st : BitVec 8) (n : BitVec 4) (data : RspData) : (respond st n data s).specv = s.specv := rfl
@[simp] theorem respond_w (s : State) (st : BitVec 8) (n : BitVec 4) (data : RspData) : (respond st n data s).w = s.w := rfl
@[simp] theorem respond_poly (s : State) (st : BitVec 8) (n : BitVec 4) (data : RspData) : (respond st n data s).poly = s.poly := rfl
@[simp] theorem respond_init (s : State) (st : BitVec 8) (n : BitVec 4) (data : RspData) : (respond st n data s).init = s.init := rfl
@[simp] theorem respond_xorOut (s : State) (st : BitVec 8) (n : BitVec 4) (data : RspData) : (respond st n data s).xorOut = s.xorOut := rfl
@[simp] theorem respond_refIn (s : State) (st : BitVec 8) (n : BitVec 4) (data : RspData) : (respond st n data s).refIn = s.refIn := rfl
@[simp] theorem respond_refOut (s : State) (st : BitVec 8) (n : BitVec 4) (data : RspData) : (respond st n data s).refOut = s.refOut := rfl
@[simp] theorem respond_rpoly (s : State) (st : BitVec 8) (n : BitVec 4) (data : RspData) : (respond st n data s).rpoly = s.rpoly := rfl
@[simp] theorem respond_reg (s : State) (st : BitVec 8) (n : BitVec 4) (data : RspData) : (respond st n data s).reg = s.reg := rfl
@[simp] theorem respond_run (s : State) (st : BitVec 8) (n : BitVec 4) (data : RspData) : (respond st n data s).run = s.run := rfl
@[simp] theorem respond_hnib (s : State) (st : BitVec 8) (n : BitVec 4) (data : RspData) : (respond st n data s).hnib = s.hnib := rfl
@[simp] theorem respond_hhalf (s : State) (st : BitVec 8) (n : BitVec 4) (data : RspData) : (respond st n data s).hhalf = s.hhalf := rfl
@[simp] theorem respond_hfail (s : State) (st : BitVec 8) (n : BitVec 4) (data : RspData) : (respond st n data s).hfail = s.hfail := rfl
@[simp] theorem respond_inReset (s : State) (st : BitVec 8) (n : BitVec 4) (data : RspData) : (respond st n data s).inReset = s.inReset := rfl
@[simp] theorem respond_port (s : State) (st : BitVec 8) (n : BitVec 4) (data : RspData) : (respond st n data s).port = s.port := rfl
@[simp] theorem respond_responses (s : State) (st : BitVec 8) (n : BitVec 4) (data : RspData) : (respond st n data s).responses = s.responses ++ [⟨st, n, data⟩] := rfl

@[simp] theorem stageCtl_rowCtrl (s : State) (v : BitVec 10) : (s.stageCtl v).rowCtrl = v := rfl
@[simp] theorem stageCtl_rowPoly (s : State) (v : BitVec 10) : (s.stageCtl v).rowPoly = s.rowPoly := rfl
@[simp] theorem stageCtl_rowInit (s : State) (v : BitVec 10) : (s.stageCtl v).rowInit = s.rowInit := rfl
@[simp] theorem stageCtl_rowXor (s : State) (v : BitVec 10) : (s.stageCtl v).rowXor = s.rowXor := rfl
@[simp] theorem stageCtl_specv (s : State) (v : BitVec 10) : (s.stageCtl v).specv = s.specv := rfl
@[simp] theorem stageCtl_w (s : State) (v : BitVec 10) : (s.stageCtl v).w = s.w := rfl
@[simp] theorem stageCtl_poly (s : State) (v : BitVec 10) : (s.stageCtl v).poly = s.poly := rfl
@[simp] theorem stageCtl_init (s : State) (v : BitVec 10) : (s.stageCtl v).init = s.init := rfl
@[simp] theorem stageCtl_xorOut (s : State) (v : BitVec 10) : (s.stageCtl v).xorOut = s.xorOut := rfl
@[simp] theorem stageCtl_refIn (s : State) (v : BitVec 10) : (s.stageCtl v).refIn = s.refIn := rfl
@[simp] theorem stageCtl_refOut (s : State) (v : BitVec 10) : (s.stageCtl v).refOut = s.refOut := rfl
@[simp] theorem stageCtl_rpoly (s : State) (v : BitVec 10) : (s.stageCtl v).rpoly = s.rpoly := rfl
@[simp] theorem stageCtl_reg (s : State) (v : BitVec 10) : (s.stageCtl v).reg = s.reg := rfl
@[simp] theorem stageCtl_run (s : State) (v : BitVec 10) : (s.stageCtl v).run = s.run := rfl
@[simp] theorem stageCtl_hnib (s : State) (v : BitVec 10) : (s.stageCtl v).hnib = s.hnib := rfl
@[simp] theorem stageCtl_hhalf (s : State) (v : BitVec 10) : (s.stageCtl v).hhalf = s.hhalf := rfl
@[simp] theorem stageCtl_hfail (s : State) (v : BitVec 10) : (s.stageCtl v).hfail = s.hfail := rfl
@[simp] theorem stageCtl_inReset (s : State) (v : BitVec 10) : (s.stageCtl v).inReset = s.inReset := rfl
@[simp] theorem stageCtl_port (s : State) (v : BitVec 10) : (s.stageCtl v).port = s.port := rfl
@[simp] theorem stageCtl_responses (s : State) (v : BitVec 10) : (s.stageCtl v).responses = s.responses := rfl

@[simp] theorem stagePoly_rowCtrl (s : State) (v : Word) : (s.stagePoly v).rowCtrl = s.rowCtrl := rfl
@[simp] theorem stagePoly_rowPoly (s : State) (v : Word) : (s.stagePoly v).rowPoly = v := rfl
@[simp] theorem stagePoly_rowInit (s : State) (v : Word) : (s.stagePoly v).rowInit = s.rowInit := rfl
@[simp] theorem stagePoly_rowXor (s : State) (v : Word) : (s.stagePoly v).rowXor = s.rowXor := rfl
@[simp] theorem stagePoly_specv (s : State) (v : Word) : (s.stagePoly v).specv = s.specv := rfl
@[simp] theorem stagePoly_w (s : State) (v : Word) : (s.stagePoly v).w = s.w := rfl
@[simp] theorem stagePoly_poly (s : State) (v : Word) : (s.stagePoly v).poly = s.poly := rfl
@[simp] theorem stagePoly_init (s : State) (v : Word) : (s.stagePoly v).init = s.init := rfl
@[simp] theorem stagePoly_xorOut (s : State) (v : Word) : (s.stagePoly v).xorOut = s.xorOut := rfl
@[simp] theorem stagePoly_refIn (s : State) (v : Word) : (s.stagePoly v).refIn = s.refIn := rfl
@[simp] theorem stagePoly_refOut (s : State) (v : Word) : (s.stagePoly v).refOut = s.refOut := rfl
@[simp] theorem stagePoly_rpoly (s : State) (v : Word) : (s.stagePoly v).rpoly = s.rpoly := rfl
@[simp] theorem stagePoly_reg (s : State) (v : Word) : (s.stagePoly v).reg = s.reg := rfl
@[simp] theorem stagePoly_run (s : State) (v : Word) : (s.stagePoly v).run = s.run := rfl
@[simp] theorem stagePoly_hnib (s : State) (v : Word) : (s.stagePoly v).hnib = s.hnib := rfl
@[simp] theorem stagePoly_hhalf (s : State) (v : Word) : (s.stagePoly v).hhalf = s.hhalf := rfl
@[simp] theorem stagePoly_hfail (s : State) (v : Word) : (s.stagePoly v).hfail = s.hfail := rfl
@[simp] theorem stagePoly_inReset (s : State) (v : Word) : (s.stagePoly v).inReset = s.inReset := rfl
@[simp] theorem stagePoly_port (s : State) (v : Word) : (s.stagePoly v).port = s.port := rfl
@[simp] theorem stagePoly_responses (s : State) (v : Word) : (s.stagePoly v).responses = s.responses := rfl

@[simp] theorem stageInit_rowCtrl (s : State) (v : Word) : (s.stageInit v).rowCtrl = s.rowCtrl := rfl
@[simp] theorem stageInit_rowPoly (s : State) (v : Word) : (s.stageInit v).rowPoly = s.rowPoly := rfl
@[simp] theorem stageInit_rowInit (s : State) (v : Word) : (s.stageInit v).rowInit = v := rfl
@[simp] theorem stageInit_rowXor (s : State) (v : Word) : (s.stageInit v).rowXor = s.rowXor := rfl
@[simp] theorem stageInit_specv (s : State) (v : Word) : (s.stageInit v).specv = s.specv := rfl
@[simp] theorem stageInit_w (s : State) (v : Word) : (s.stageInit v).w = s.w := rfl
@[simp] theorem stageInit_poly (s : State) (v : Word) : (s.stageInit v).poly = s.poly := rfl
@[simp] theorem stageInit_init (s : State) (v : Word) : (s.stageInit v).init = s.init := rfl
@[simp] theorem stageInit_xorOut (s : State) (v : Word) : (s.stageInit v).xorOut = s.xorOut := rfl
@[simp] theorem stageInit_refIn (s : State) (v : Word) : (s.stageInit v).refIn = s.refIn := rfl
@[simp] theorem stageInit_refOut (s : State) (v : Word) : (s.stageInit v).refOut = s.refOut := rfl
@[simp] theorem stageInit_rpoly (s : State) (v : Word) : (s.stageInit v).rpoly = s.rpoly := rfl
@[simp] theorem stageInit_reg (s : State) (v : Word) : (s.stageInit v).reg = s.reg := rfl
@[simp] theorem stageInit_run (s : State) (v : Word) : (s.stageInit v).run = s.run := rfl
@[simp] theorem stageInit_hnib (s : State) (v : Word) : (s.stageInit v).hnib = s.hnib := rfl
@[simp] theorem stageInit_hhalf (s : State) (v : Word) : (s.stageInit v).hhalf = s.hhalf := rfl
@[simp] theorem stageInit_hfail (s : State) (v : Word) : (s.stageInit v).hfail = s.hfail := rfl
@[simp] theorem stageInit_inReset (s : State) (v : Word) : (s.stageInit v).inReset = s.inReset := rfl
@[simp] theorem stageInit_port (s : State) (v : Word) : (s.stageInit v).port = s.port := rfl
@[simp] theorem stageInit_responses (s : State) (v : Word) : (s.stageInit v).responses = s.responses := rfl

@[simp] theorem stageXor_rowCtrl (s : State) (v : Word) : (s.stageXor v).rowCtrl = s.rowCtrl := rfl
@[simp] theorem stageXor_rowPoly (s : State) (v : Word) : (s.stageXor v).rowPoly = s.rowPoly := rfl
@[simp] theorem stageXor_rowInit (s : State) (v : Word) : (s.stageXor v).rowInit = s.rowInit := rfl
@[simp] theorem stageXor_rowXor (s : State) (v : Word) : (s.stageXor v).rowXor = v := rfl
@[simp] theorem stageXor_specv (s : State) (v : Word) : (s.stageXor v).specv = s.specv := rfl
@[simp] theorem stageXor_w (s : State) (v : Word) : (s.stageXor v).w = s.w := rfl
@[simp] theorem stageXor_poly (s : State) (v : Word) : (s.stageXor v).poly = s.poly := rfl
@[simp] theorem stageXor_init (s : State) (v : Word) : (s.stageXor v).init = s.init := rfl
@[simp] theorem stageXor_xorOut (s : State) (v : Word) : (s.stageXor v).xorOut = s.xorOut := rfl
@[simp] theorem stageXor_refIn (s : State) (v : Word) : (s.stageXor v).refIn = s.refIn := rfl
@[simp] theorem stageXor_refOut (s : State) (v : Word) : (s.stageXor v).refOut = s.refOut := rfl
@[simp] theorem stageXor_rpoly (s : State) (v : Word) : (s.stageXor v).rpoly = s.rpoly := rfl
@[simp] theorem stageXor_reg (s : State) (v : Word) : (s.stageXor v).reg = s.reg := rfl
@[simp] theorem stageXor_run (s : State) (v : Word) : (s.stageXor v).run = s.run := rfl
@[simp] theorem stageXor_hnib (s : State) (v : Word) : (s.stageXor v).hnib = s.hnib := rfl
@[simp] theorem stageXor_hhalf (s : State) (v : Word) : (s.stageXor v).hhalf = s.hhalf := rfl
@[simp] theorem stageXor_hfail (s : State) (v : Word) : (s.stageXor v).hfail = s.hfail := rfl
@[simp] theorem stageXor_inReset (s : State) (v : Word) : (s.stageXor v).inReset = s.inReset := rfl
@[simp] theorem stageXor_port (s : State) (v : Word) : (s.stageXor v).port = s.port := rfl
@[simp] theorem stageXor_responses (s : State) (v : Word) : (s.stageXor v).responses = s.responses := rfl

@[simp] theorem loadSpec_rowCtrl (s : State) (w : Width) (p i x : Word) (ri ro : Bool) (rp : Word) : (s.loadSpec w p i x ri ro rp).rowCtrl = s.rowCtrl := rfl
@[simp] theorem loadSpec_rowPoly (s : State) (w : Width) (p i x : Word) (ri ro : Bool) (rp : Word) : (s.loadSpec w p i x ri ro rp).rowPoly = s.rowPoly := rfl
@[simp] theorem loadSpec_rowInit (s : State) (w : Width) (p i x : Word) (ri ro : Bool) (rp : Word) : (s.loadSpec w p i x ri ro rp).rowInit = s.rowInit := rfl
@[simp] theorem loadSpec_rowXor (s : State) (w : Width) (p i x : Word) (ri ro : Bool) (rp : Word) : (s.loadSpec w p i x ri ro rp).rowXor = s.rowXor := rfl
@[simp] theorem loadSpec_specv (s : State) (w : Width) (p i x : Word) (ri ro : Bool) (rp : Word) : (s.loadSpec w p i x ri ro rp).specv = true := rfl
@[simp] theorem loadSpec_w (s : State) (w : Width) (p i x : Word) (ri ro : Bool) (rp : Word) : (s.loadSpec w p i x ri ro rp).w = w := rfl
@[simp] theorem loadSpec_poly (s : State) (w : Width) (p i x : Word) (ri ro : Bool) (rp : Word) : (s.loadSpec w p i x ri ro rp).poly = p := rfl
@[simp] theorem loadSpec_init (s : State) (w : Width) (p i x : Word) (ri ro : Bool) (rp : Word) : (s.loadSpec w p i x ri ro rp).init = i := rfl
@[simp] theorem loadSpec_xorOut (s : State) (w : Width) (p i x : Word) (ri ro : Bool) (rp : Word) : (s.loadSpec w p i x ri ro rp).xorOut = x := rfl
@[simp] theorem loadSpec_refIn (s : State) (w : Width) (p i x : Word) (ri ro : Bool) (rp : Word) : (s.loadSpec w p i x ri ro rp).refIn = ri := rfl
@[simp] theorem loadSpec_refOut (s : State) (w : Width) (p i x : Word) (ri ro : Bool) (rp : Word) : (s.loadSpec w p i x ri ro rp).refOut = ro := rfl
@[simp] theorem loadSpec_rpoly (s : State) (w : Width) (p i x : Word) (ri ro : Bool) (rp : Word) : (s.loadSpec w p i x ri ro rp).rpoly = rp := rfl
@[simp] theorem loadSpec_reg (s : State) (w : Width) (p i x : Word) (ri ro : Bool) (rp : Word) : (s.loadSpec w p i x ri ro rp).reg = s.reg := rfl
@[simp] theorem loadSpec_run (s : State) (w : Width) (p i x : Word) (ri ro : Bool) (rp : Word) : (s.loadSpec w p i x ri ro rp).run = s.run := rfl
@[simp] theorem loadSpec_hnib (s : State) (w : Width) (p i x : Word) (ri ro : Bool) (rp : Word) : (s.loadSpec w p i x ri ro rp).hnib = s.hnib := rfl
@[simp] theorem loadSpec_hhalf (s : State) (w : Width) (p i x : Word) (ri ro : Bool) (rp : Word) : (s.loadSpec w p i x ri ro rp).hhalf = s.hhalf := rfl
@[simp] theorem loadSpec_hfail (s : State) (w : Width) (p i x : Word) (ri ro : Bool) (rp : Word) : (s.loadSpec w p i x ri ro rp).hfail = s.hfail := rfl
@[simp] theorem loadSpec_inReset (s : State) (w : Width) (p i x : Word) (ri ro : Bool) (rp : Word) : (s.loadSpec w p i x ri ro rp).inReset = s.inReset := rfl
@[simp] theorem loadSpec_port (s : State) (w : Width) (p i x : Word) (ri ro : Bool) (rp : Word) : (s.loadSpec w p i x ri ro rp).port = s.port := rfl
@[simp] theorem loadSpec_responses (s : State) (w : Width) (p i x : Word) (ri ro : Bool) (rp : Word) : (s.loadSpec w p i x ri ro rp).responses = s.responses := rfl

@[simp] theorem setReg_rowCtrl (s : State) (v : Word) : (s.setReg v).rowCtrl = s.rowCtrl := rfl
@[simp] theorem setReg_rowPoly (s : State) (v : Word) : (s.setReg v).rowPoly = s.rowPoly := rfl
@[simp] theorem setReg_rowInit (s : State) (v : Word) : (s.setReg v).rowInit = s.rowInit := rfl
@[simp] theorem setReg_rowXor (s : State) (v : Word) : (s.setReg v).rowXor = s.rowXor := rfl
@[simp] theorem setReg_specv (s : State) (v : Word) : (s.setReg v).specv = s.specv := rfl
@[simp] theorem setReg_w (s : State) (v : Word) : (s.setReg v).w = s.w := rfl
@[simp] theorem setReg_poly (s : State) (v : Word) : (s.setReg v).poly = s.poly := rfl
@[simp] theorem setReg_init (s : State) (v : Word) : (s.setReg v).init = s.init := rfl
@[simp] theorem setReg_xorOut (s : State) (v : Word) : (s.setReg v).xorOut = s.xorOut := rfl
@[simp] theorem setReg_refIn (s : State) (v : Word) : (s.setReg v).refIn = s.refIn := rfl
@[simp] theorem setReg_refOut (s : State) (v : Word) : (s.setReg v).refOut = s.refOut := rfl
@[simp] theorem setReg_rpoly (s : State) (v : Word) : (s.setReg v).rpoly = s.rpoly := rfl
@[simp] theorem setReg_reg (s : State) (v : Word) : (s.setReg v).reg = v := rfl
@[simp] theorem setReg_run (s : State) (v : Word) : (s.setReg v).run = s.run := rfl
@[simp] theorem setReg_hnib (s : State) (v : Word) : (s.setReg v).hnib = s.hnib := rfl
@[simp] theorem setReg_hhalf (s : State) (v : Word) : (s.setReg v).hhalf = s.hhalf := rfl
@[simp] theorem setReg_hfail (s : State) (v : Word) : (s.setReg v).hfail = s.hfail := rfl
@[simp] theorem setReg_inReset (s : State) (v : Word) : (s.setReg v).inReset = s.inReset := rfl
@[simp] theorem setReg_port (s : State) (v : Word) : (s.setReg v).port = s.port := rfl
@[simp] theorem setReg_responses (s : State) (v : Word) : (s.setReg v).responses = s.responses := rfl

@[simp] theorem openRun_rowCtrl (s : State) : (s.openRun).rowCtrl = s.rowCtrl := rfl
@[simp] theorem openRun_rowPoly (s : State) : (s.openRun).rowPoly = s.rowPoly := rfl
@[simp] theorem openRun_rowInit (s : State) : (s.openRun).rowInit = s.rowInit := rfl
@[simp] theorem openRun_rowXor (s : State) : (s.openRun).rowXor = s.rowXor := rfl
@[simp] theorem openRun_specv (s : State) : (s.openRun).specv = s.specv := rfl
@[simp] theorem openRun_w (s : State) : (s.openRun).w = s.w := rfl
@[simp] theorem openRun_poly (s : State) : (s.openRun).poly = s.poly := rfl
@[simp] theorem openRun_init (s : State) : (s.openRun).init = s.init := rfl
@[simp] theorem openRun_xorOut (s : State) : (s.openRun).xorOut = s.xorOut := rfl
@[simp] theorem openRun_refIn (s : State) : (s.openRun).refIn = s.refIn := rfl
@[simp] theorem openRun_refOut (s : State) : (s.openRun).refOut = s.refOut := rfl
@[simp] theorem openRun_rpoly (s : State) : (s.openRun).rpoly = s.rpoly := rfl
@[simp] theorem openRun_reg (s : State) : (s.openRun).reg = s.reg := rfl
@[simp] theorem openRun_run (s : State) : (s.openRun).run = true := rfl
@[simp] theorem openRun_hnib (s : State) : (s.openRun).hnib = s.hnib := rfl
@[simp] theorem openRun_hhalf (s : State) : (s.openRun).hhalf = s.hhalf := rfl
@[simp] theorem openRun_hfail (s : State) : (s.openRun).hfail = s.hfail := rfl
@[simp] theorem openRun_inReset (s : State) : (s.openRun).inReset = s.inReset := rfl
@[simp] theorem openRun_port (s : State) : (s.openRun).port = s.port := rfl
@[simp] theorem openRun_responses (s : State) : (s.openRun).responses = s.responses := rfl

@[simp] theorem closeRun_rowCtrl (s : State) : (s.closeRun).rowCtrl = s.rowCtrl := rfl
@[simp] theorem closeRun_rowPoly (s : State) : (s.closeRun).rowPoly = s.rowPoly := rfl
@[simp] theorem closeRun_rowInit (s : State) : (s.closeRun).rowInit = s.rowInit := rfl
@[simp] theorem closeRun_rowXor (s : State) : (s.closeRun).rowXor = s.rowXor := rfl
@[simp] theorem closeRun_specv (s : State) : (s.closeRun).specv = s.specv := rfl
@[simp] theorem closeRun_w (s : State) : (s.closeRun).w = s.w := rfl
@[simp] theorem closeRun_poly (s : State) : (s.closeRun).poly = s.poly := rfl
@[simp] theorem closeRun_init (s : State) : (s.closeRun).init = s.init := rfl
@[simp] theorem closeRun_xorOut (s : State) : (s.closeRun).xorOut = s.xorOut := rfl
@[simp] theorem closeRun_refIn (s : State) : (s.closeRun).refIn = s.refIn := rfl
@[simp] theorem closeRun_refOut (s : State) : (s.closeRun).refOut = s.refOut := rfl
@[simp] theorem closeRun_rpoly (s : State) : (s.closeRun).rpoly = s.rpoly := rfl
@[simp] theorem closeRun_reg (s : State) : (s.closeRun).reg = s.reg := rfl
@[simp] theorem closeRun_run (s : State) : (s.closeRun).run = false := rfl
@[simp] theorem closeRun_hnib (s : State) : (s.closeRun).hnib = s.hnib := rfl
@[simp] theorem closeRun_hhalf (s : State) : (s.closeRun).hhalf = s.hhalf := rfl
@[simp] theorem closeRun_hfail (s : State) : (s.closeRun).hfail = s.hfail := rfl
@[simp] theorem closeRun_inReset (s : State) : (s.closeRun).inReset = s.inReset := rfl
@[simp] theorem closeRun_port (s : State) : (s.closeRun).port = s.port := rfl
@[simp] theorem closeRun_responses (s : State) : (s.closeRun).responses = s.responses := rfl

@[simp] theorem keepNibble_rowCtrl (s : State) (d : BitVec 4) : (s.keepNibble d).rowCtrl = s.rowCtrl := rfl
@[simp] theorem keepNibble_rowPoly (s : State) (d : BitVec 4) : (s.keepNibble d).rowPoly = s.rowPoly := rfl
@[simp] theorem keepNibble_rowInit (s : State) (d : BitVec 4) : (s.keepNibble d).rowInit = s.rowInit := rfl
@[simp] theorem keepNibble_rowXor (s : State) (d : BitVec 4) : (s.keepNibble d).rowXor = s.rowXor := rfl
@[simp] theorem keepNibble_specv (s : State) (d : BitVec 4) : (s.keepNibble d).specv = s.specv := rfl
@[simp] theorem keepNibble_w (s : State) (d : BitVec 4) : (s.keepNibble d).w = s.w := rfl
@[simp] theorem keepNibble_poly (s : State) (d : BitVec 4) : (s.keepNibble d).poly = s.poly := rfl
@[simp] theorem keepNibble_init (s : State) (d : BitVec 4) : (s.keepNibble d).init = s.init := rfl
@[simp] theorem keepNibble_xorOut (s : State) (d : BitVec 4) : (s.keepNibble d).xorOut = s.xorOut := rfl
@[simp] theorem keepNibble_refIn (s : State) (d : BitVec 4) : (s.keepNibble d).refIn = s.refIn := rfl
@[simp] theorem keepNibble_refOut (s : State) (d : BitVec 4) : (s.keepNibble d).refOut = s.refOut := rfl
@[simp] theorem keepNibble_rpoly (s : State) (d : BitVec 4) : (s.keepNibble d).rpoly = s.rpoly := rfl
@[simp] theorem keepNibble_reg (s : State) (d : BitVec 4) : (s.keepNibble d).reg = s.reg := rfl
@[simp] theorem keepNibble_run (s : State) (d : BitVec 4) : (s.keepNibble d).run = s.run := rfl
@[simp] theorem keepNibble_hnib (s : State) (d : BitVec 4) : (s.keepNibble d).hnib = d := rfl
@[simp] theorem keepNibble_hhalf (s : State) (d : BitVec 4) : (s.keepNibble d).hhalf = true := rfl
@[simp] theorem keepNibble_hfail (s : State) (d : BitVec 4) : (s.keepNibble d).hfail = s.hfail := rfl
@[simp] theorem keepNibble_inReset (s : State) (d : BitVec 4) : (s.keepNibble d).inReset = s.inReset := rfl
@[simp] theorem keepNibble_port (s : State) (d : BitVec 4) : (s.keepNibble d).port = s.port := rfl
@[simp] theorem keepNibble_responses (s : State) (d : BitVec 4) : (s.keepNibble d).responses = s.responses := rfl

@[simp] theorem clearHalf_rowCtrl (s : State) : (s.clearHalf).rowCtrl = s.rowCtrl := rfl
@[simp] theorem clearHalf_rowPoly (s : State) : (s.clearHalf).rowPoly = s.rowPoly := rfl
@[simp] theorem clearHalf_rowInit (s : State) : (s.clearHalf).rowInit = s.rowInit := rfl
@[simp] theorem clearHalf_rowXor (s : State) : (s.clearHalf).rowXor = s.rowXor := rfl
@[simp] theorem clearHalf_specv (s : State) : (s.clearHalf).specv = s.specv := rfl
@[simp] theorem clearHalf_w (s : State) : (s.clearHalf).w = s.w := rfl
@[simp] theorem clearHalf_poly (s : State) : (s.clearHalf).poly = s.poly := rfl
@[simp] theorem clearHalf_init (s : State) : (s.clearHalf).init = s.init := rfl
@[simp] theorem clearHalf_xorOut (s : State) : (s.clearHalf).xorOut = s.xorOut := rfl
@[simp] theorem clearHalf_refIn (s : State) : (s.clearHalf).refIn = s.refIn := rfl
@[simp] theorem clearHalf_refOut (s : State) : (s.clearHalf).refOut = s.refOut := rfl
@[simp] theorem clearHalf_rpoly (s : State) : (s.clearHalf).rpoly = s.rpoly := rfl
@[simp] theorem clearHalf_reg (s : State) : (s.clearHalf).reg = s.reg := rfl
@[simp] theorem clearHalf_run (s : State) : (s.clearHalf).run = s.run := rfl
@[simp] theorem clearHalf_hnib (s : State) : (s.clearHalf).hnib = s.hnib := rfl
@[simp] theorem clearHalf_hhalf (s : State) : (s.clearHalf).hhalf = false := rfl
@[simp] theorem clearHalf_hfail (s : State) : (s.clearHalf).hfail = s.hfail := rfl
@[simp] theorem clearHalf_inReset (s : State) : (s.clearHalf).inReset = s.inReset := rfl
@[simp] theorem clearHalf_port (s : State) : (s.clearHalf).port = s.port := rfl
@[simp] theorem clearHalf_responses (s : State) : (s.clearHalf).responses = s.responses := rfl

@[simp] theorem failText_rowCtrl (s : State) : (s.failText).rowCtrl = s.rowCtrl := rfl
@[simp] theorem failText_rowPoly (s : State) : (s.failText).rowPoly = s.rowPoly := rfl
@[simp] theorem failText_rowInit (s : State) : (s.failText).rowInit = s.rowInit := rfl
@[simp] theorem failText_rowXor (s : State) : (s.failText).rowXor = s.rowXor := rfl
@[simp] theorem failText_specv (s : State) : (s.failText).specv = s.specv := rfl
@[simp] theorem failText_w (s : State) : (s.failText).w = s.w := rfl
@[simp] theorem failText_poly (s : State) : (s.failText).poly = s.poly := rfl
@[simp] theorem failText_init (s : State) : (s.failText).init = s.init := rfl
@[simp] theorem failText_xorOut (s : State) : (s.failText).xorOut = s.xorOut := rfl
@[simp] theorem failText_refIn (s : State) : (s.failText).refIn = s.refIn := rfl
@[simp] theorem failText_refOut (s : State) : (s.failText).refOut = s.refOut := rfl
@[simp] theorem failText_rpoly (s : State) : (s.failText).rpoly = s.rpoly := rfl
@[simp] theorem failText_reg (s : State) : (s.failText).reg = s.reg := rfl
@[simp] theorem failText_run (s : State) : (s.failText).run = s.run := rfl
@[simp] theorem failText_hnib (s : State) : (s.failText).hnib = s.hnib := rfl
@[simp] theorem failText_hhalf (s : State) : (s.failText).hhalf = s.hhalf := rfl
@[simp] theorem failText_hfail (s : State) : (s.failText).hfail = true := rfl
@[simp] theorem failText_inReset (s : State) : (s.failText).inReset = s.inReset := rfl
@[simp] theorem failText_port (s : State) : (s.failText).port = s.port := rfl
@[simp] theorem failText_responses (s : State) : (s.failText).responses = s.responses := rfl

@[simp] theorem clearText_rowCtrl (s : State) : (s.clearText).rowCtrl = s.rowCtrl := rfl
@[simp] theorem clearText_rowPoly (s : State) : (s.clearText).rowPoly = s.rowPoly := rfl
@[simp] theorem clearText_rowInit (s : State) : (s.clearText).rowInit = s.rowInit := rfl
@[simp] theorem clearText_rowXor (s : State) : (s.clearText).rowXor = s.rowXor := rfl
@[simp] theorem clearText_specv (s : State) : (s.clearText).specv = s.specv := rfl
@[simp] theorem clearText_w (s : State) : (s.clearText).w = s.w := rfl
@[simp] theorem clearText_poly (s : State) : (s.clearText).poly = s.poly := rfl
@[simp] theorem clearText_init (s : State) : (s.clearText).init = s.init := rfl
@[simp] theorem clearText_xorOut (s : State) : (s.clearText).xorOut = s.xorOut := rfl
@[simp] theorem clearText_refIn (s : State) : (s.clearText).refIn = s.refIn := rfl
@[simp] theorem clearText_refOut (s : State) : (s.clearText).refOut = s.refOut := rfl
@[simp] theorem clearText_rpoly (s : State) : (s.clearText).rpoly = s.rpoly := rfl
@[simp] theorem clearText_reg (s : State) : (s.clearText).reg = s.reg := rfl
@[simp] theorem clearText_run (s : State) : (s.clearText).run = s.run := rfl
@[simp] theorem clearText_hnib (s : State) : (s.clearText).hnib = s.hnib := rfl
@[simp] theorem clearText_hhalf (s : State) : (s.clearText).hhalf = false := rfl
@[simp] theorem clearText_hfail (s : State) : (s.clearText).hfail = false := rfl
@[simp] theorem clearText_inReset (s : State) : (s.clearText).inReset = s.inReset := rfl
@[simp] theorem clearText_port (s : State) : (s.clearText).port = s.port := rfl
@[simp] theorem clearText_responses (s : State) : (s.clearText).responses = s.responses := rfl

@[simp] theorem takeEvent_rowCtrl (s : State) (rest : List PortEvent) : (s.takeEvent rest).rowCtrl = s.rowCtrl := rfl
@[simp] theorem takeEvent_rowPoly (s : State) (rest : List PortEvent) : (s.takeEvent rest).rowPoly = s.rowPoly := rfl
@[simp] theorem takeEvent_rowInit (s : State) (rest : List PortEvent) : (s.takeEvent rest).rowInit = s.rowInit := rfl
@[simp] theorem takeEvent_rowXor (s : State) (rest : List PortEvent) : (s.takeEvent rest).rowXor = s.rowXor := rfl
@[simp] theorem takeEvent_specv (s : State) (rest : List PortEvent) : (s.takeEvent rest).specv = s.specv := rfl
@[simp] theorem takeEvent_w (s : State) (rest : List PortEvent) : (s.takeEvent rest).w = s.w := rfl
@[simp] theorem takeEvent_poly (s : State) (rest : List PortEvent) : (s.takeEvent rest).poly = s.poly := rfl
@[simp] theorem takeEvent_init (s : State) (rest : List PortEvent) : (s.takeEvent rest).init = s.init := rfl
@[simp] theorem takeEvent_xorOut (s : State) (rest : List PortEvent) : (s.takeEvent rest).xorOut = s.xorOut := rfl
@[simp] theorem takeEvent_refIn (s : State) (rest : List PortEvent) : (s.takeEvent rest).refIn = s.refIn := rfl
@[simp] theorem takeEvent_refOut (s : State) (rest : List PortEvent) : (s.takeEvent rest).refOut = s.refOut := rfl
@[simp] theorem takeEvent_rpoly (s : State) (rest : List PortEvent) : (s.takeEvent rest).rpoly = s.rpoly := rfl
@[simp] theorem takeEvent_reg (s : State) (rest : List PortEvent) : (s.takeEvent rest).reg = s.reg := rfl
@[simp] theorem takeEvent_run (s : State) (rest : List PortEvent) : (s.takeEvent rest).run = s.run := rfl
@[simp] theorem takeEvent_hnib (s : State) (rest : List PortEvent) : (s.takeEvent rest).hnib = s.hnib := rfl
@[simp] theorem takeEvent_hhalf (s : State) (rest : List PortEvent) : (s.takeEvent rest).hhalf = s.hhalf := rfl
@[simp] theorem takeEvent_hfail (s : State) (rest : List PortEvent) : (s.takeEvent rest).hfail = s.hfail := rfl
@[simp] theorem takeEvent_inReset (s : State) (rest : List PortEvent) : (s.takeEvent rest).inReset = s.inReset := rfl
@[simp] theorem takeEvent_port (s : State) (rest : List PortEvent) : (s.takeEvent rest).port = rest := rfl
@[simp] theorem takeEvent_responses (s : State) (rest : List PortEvent) : (s.takeEvent rest).responses = s.responses := rfl

@[simp] theorem present_rowCtrl (s : State) (c : CmdWord) : (s.present c).rowCtrl = s.rowCtrl := rfl
@[simp] theorem present_rowPoly (s : State) (c : CmdWord) : (s.present c).rowPoly = s.rowPoly := rfl
@[simp] theorem present_rowInit (s : State) (c : CmdWord) : (s.present c).rowInit = s.rowInit := rfl
@[simp] theorem present_rowXor (s : State) (c : CmdWord) : (s.present c).rowXor = s.rowXor := rfl
@[simp] theorem present_specv (s : State) (c : CmdWord) : (s.present c).specv = s.specv := rfl
@[simp] theorem present_w (s : State) (c : CmdWord) : (s.present c).w = s.w := rfl
@[simp] theorem present_poly (s : State) (c : CmdWord) : (s.present c).poly = s.poly := rfl
@[simp] theorem present_init (s : State) (c : CmdWord) : (s.present c).init = s.init := rfl
@[simp] theorem present_xorOut (s : State) (c : CmdWord) : (s.present c).xorOut = s.xorOut := rfl
@[simp] theorem present_refIn (s : State) (c : CmdWord) : (s.present c).refIn = s.refIn := rfl
@[simp] theorem present_refOut (s : State) (c : CmdWord) : (s.present c).refOut = s.refOut := rfl
@[simp] theorem present_rpoly (s : State) (c : CmdWord) : (s.present c).rpoly = s.rpoly := rfl
@[simp] theorem present_reg (s : State) (c : CmdWord) : (s.present c).reg = s.reg := rfl
@[simp] theorem present_run (s : State) (c : CmdWord) : (s.present c).run = s.run := rfl
@[simp] theorem present_hnib (s : State) (c : CmdWord) : (s.present c).hnib = s.hnib := rfl
@[simp] theorem present_hhalf (s : State) (c : CmdWord) : (s.present c).hhalf = s.hhalf := rfl
@[simp] theorem present_hfail (s : State) (c : CmdWord) : (s.present c).hfail = s.hfail := rfl
@[simp] theorem present_inReset (s : State) (c : CmdWord) : (s.present c).inReset = false := rfl
@[simp] theorem present_port (s : State) (c : CmdWord) : (s.present c).port = .command c :: s.port := rfl
@[simp] theorem present_responses (s : State) (c : CmdWord) : (s.present c).responses = s.responses := rfl

@[simp] theorem resetRegisters_rowCtrl (s : State) : (s.resetRegisters).rowCtrl = State.reset.rowCtrl := rfl
@[simp] theorem resetRegisters_rowPoly (s : State) : (s.resetRegisters).rowPoly = State.reset.rowPoly := rfl
@[simp] theorem resetRegisters_rowInit (s : State) : (s.resetRegisters).rowInit = State.reset.rowInit := rfl
@[simp] theorem resetRegisters_rowXor (s : State) : (s.resetRegisters).rowXor = State.reset.rowXor := rfl
@[simp] theorem resetRegisters_specv (s : State) : (s.resetRegisters).specv = State.reset.specv := rfl
@[simp] theorem resetRegisters_w (s : State) : (s.resetRegisters).w = State.reset.w := rfl
@[simp] theorem resetRegisters_poly (s : State) : (s.resetRegisters).poly = State.reset.poly := rfl
@[simp] theorem resetRegisters_init (s : State) : (s.resetRegisters).init = State.reset.init := rfl
@[simp] theorem resetRegisters_xorOut (s : State) : (s.resetRegisters).xorOut = State.reset.xorOut := rfl
@[simp] theorem resetRegisters_refIn (s : State) : (s.resetRegisters).refIn = State.reset.refIn := rfl
@[simp] theorem resetRegisters_refOut (s : State) : (s.resetRegisters).refOut = State.reset.refOut := rfl
@[simp] theorem resetRegisters_rpoly (s : State) : (s.resetRegisters).rpoly = State.reset.rpoly := rfl
@[simp] theorem resetRegisters_reg (s : State) : (s.resetRegisters).reg = State.reset.reg := rfl
@[simp] theorem resetRegisters_run (s : State) : (s.resetRegisters).run = State.reset.run := rfl
@[simp] theorem resetRegisters_hnib (s : State) : (s.resetRegisters).hnib = State.reset.hnib := rfl
@[simp] theorem resetRegisters_hhalf (s : State) : (s.resetRegisters).hhalf = State.reset.hhalf := rfl
@[simp] theorem resetRegisters_hfail (s : State) : (s.resetRegisters).hfail = State.reset.hfail := rfl
@[simp] theorem resetRegisters_inReset (s : State) : (s.resetRegisters).inReset = s.inReset := rfl
@[simp] theorem resetRegisters_port (s : State) : (s.resetRegisters).port = s.port := rfl
@[simp] theorem resetRegisters_responses (s : State) : (s.resetRegisters).responses = s.responses := rfl

@[simp] theorem enterReset_rowCtrl (s : State) : (s.enterReset).rowCtrl = State.reset.rowCtrl := rfl
@[simp] theorem enterReset_rowPoly (s : State) : (s.enterReset).rowPoly = State.reset.rowPoly := rfl
@[simp] theorem enterReset_rowInit (s : State) : (s.enterReset).rowInit = State.reset.rowInit := rfl
@[simp] theorem enterReset_rowXor (s : State) : (s.enterReset).rowXor = State.reset.rowXor := rfl
@[simp] theorem enterReset_specv (s : State) : (s.enterReset).specv = State.reset.specv := rfl
@[simp] theorem enterReset_w (s : State) : (s.enterReset).w = State.reset.w := rfl
@[simp] theorem enterReset_poly (s : State) : (s.enterReset).poly = State.reset.poly := rfl
@[simp] theorem enterReset_init (s : State) : (s.enterReset).init = State.reset.init := rfl
@[simp] theorem enterReset_xorOut (s : State) : (s.enterReset).xorOut = State.reset.xorOut := rfl
@[simp] theorem enterReset_refIn (s : State) : (s.enterReset).refIn = State.reset.refIn := rfl
@[simp] theorem enterReset_refOut (s : State) : (s.enterReset).refOut = State.reset.refOut := rfl
@[simp] theorem enterReset_rpoly (s : State) : (s.enterReset).rpoly = State.reset.rpoly := rfl
@[simp] theorem enterReset_reg (s : State) : (s.enterReset).reg = State.reset.reg := rfl
@[simp] theorem enterReset_run (s : State) : (s.enterReset).run = State.reset.run := rfl
@[simp] theorem enterReset_hnib (s : State) : (s.enterReset).hnib = State.reset.hnib := rfl
@[simp] theorem enterReset_hhalf (s : State) : (s.enterReset).hhalf = State.reset.hhalf := rfl
@[simp] theorem enterReset_hfail (s : State) : (s.enterReset).hfail = State.reset.hfail := rfl
@[simp] theorem enterReset_inReset (s : State) : (s.enterReset).inReset = true := rfl
@[simp] theorem enterReset_port (s : State) : (s.enterReset).port = s.port := rfl
@[simp] theorem enterReset_responses (s : State) : (s.enterReset).responses = s.responses := rfl

end Sys2Proof.Machine
end

