-- ==== Sys2Proof/Laws/Ops.lean ====
section
/-! SUPPORT. One lemma per shared operation that says everything it can do, and the frame every command has at the
ports: no meaning touches the inputs to come or the reset input. -/

namespace Sys2Proof.Machine

open Sys2Proof

/-- A successful answer is a next state whose only news is the response. -/
theorem answer_eq (n : BitVec 4) (data : RspData) (s : State) :
    answer n data s = .next { s with responses := s.responses ++ [⟨0, n, data⟩] } := rfl

/-- A failure is a next state whose only news is the response with the code, no item and no data. -/
theorem raise_eq (e : ErrorKind) (s : State) :
    raise e s = .next { s with responses := s.responses ++ [⟨errorCode e, 0, 0⟩] } := rfl

theorem answer_next_iff {n : BitVec 4} {data : RspData} {s t : State} :
    answer n data s = .next t ↔ respond okCode n data s = t := by
  simp [answer]

theorem raise_next_iff {e : ErrorKind} {s t : State} :
    raise e s = .next t ↔ respond (errorCode e) 0 0 s = t := by
  simp [raise]

/-- The gate of `START`. -/
theorem whenLoaded_next {s t : State} {k : Host.Outcome State Fault Refusal} (h : whenLoaded s k = .next t) :
    (s.specv = true ∧ k = .next t) ∨ (s.specv = false ∧ respond (errorCode .sequenceError) 0 0 s = t) := by
  unfold whenLoaded at h
  split at h
  · exact .inl ⟨‹_›, h⟩
  · exact .inr ⟨‹_›, raise_next_iff.mp h⟩

/-- The gate of `BYTE` and `FINAL`. -/
theorem whenRunning_next {s t : State} {k : Host.Outcome State Fault Refusal} (h : whenRunning s k = .next t) :
    (s.run = true ∧ k = .next t) ∨ (s.run = false ∧ respond (errorCode .sequenceError) 0 0 s = t) := by
  unfold whenRunning at h
  split at h
  · exact .inl ⟨‹_›, h⟩
  · exact .inr ⟨‹_›, raise_next_iff.mp h⟩

/-- The gate of `LDSPEC`. -/
theorem whenIdle_next {s t : State} {k : Host.Outcome State Fault Refusal} (h : whenIdle s k = .next t) :
    (s.run = false ∧ k = .next t) ∨ (s.run = true ∧ respond (errorCode .sequenceError) 0 0 s = t) := by
  unfold whenIdle at h
  split at h
  · exact .inr ⟨‹_›, raise_next_iff.mp h⟩
  · exact .inl ⟨‹_›, h⟩

/-- The gate of `HEXCH`. -/
theorem whenTextGood_next {s t : State} {k : Host.Outcome State Fault Refusal} (h : whenTextGood s k = .next t) :
    (s.hfail = false ∧ k = .next t) ∨ (s.hfail = true ∧ respond (errorCode .malformedHexInput) 0 0 s = t) := by
  unfold whenTextGood at h
  split at h
  · exact .inr ⟨‹_›, raise_next_iff.mp h⟩
  · exact .inl ⟨‹_›, h⟩

/-- What `LDSPEC` can do. -/
theorem execLdspec_cases {s t : State} (h : execLdspec s = .next t) :
    (s.run = true ∧ t = respond (errorCode .sequenceError) 0 0 s) ∨
    (s.run = false ∧ wellFormedWidth (rowWidth s.rowCtrl) s.rowPoly.toNat s.rowInit.toNat s.rowXor.toNat = none ∧
      t = respond (errorCode .invalidSpec) 0 0 s) ∨
    (∃ w, s.run = false ∧
      wellFormedWidth (rowWidth s.rowCtrl) s.rowPoly.toNat s.rowInit.toNat s.rowXor.toNat = some w ∧
      rowRefIn s.rowCtrl ≠ rowRefOut s.rowCtrl ∧ t = respond (errorCode .unsupportedSpec) 0 0 s) ∨
    (∃ w, s.run = false ∧
      wellFormedWidth (rowWidth s.rowCtrl) s.rowPoly.toNat s.rowInit.toNat s.rowXor.toNat = some w ∧
      rowRefIn s.rowCtrl = rowRefOut s.rowCtrl ∧ t = respond okCode 0 0 (commitRow w s)) := by
  obtain ⟨hr, hk⟩ | ⟨hr, rfl⟩ := whenIdle_next h
  · split at hk
    · exact .inr (.inl ⟨hr, ‹_›, (raise_next_iff.mp hk).symm⟩)
    · split at hk
      · exact .inr (.inr (.inr ⟨_, hr, ‹_›, by simpa [supported] using ‹supported _ _ = true›,
          (answer_next_iff.mp hk).symm⟩))
      · exact .inr (.inr (.inl ⟨_, hr, ‹_›, by simpa [supported] using ‹¬ supported _ _ = true›,
          (raise_next_iff.mp hk).symm⟩))
  · exact .inl ⟨hr, rfl⟩

/-- What `START` can do. -/
theorem execStart_cases {s t : State} (h : execStart s = .next t) :
    (s.specv = true ∧ t = respond okCode 0 0 (s.setReg s.init).openRun) ∨
    (s.specv = false ∧ t = respond (errorCode .sequenceError) 0 0 s) := by
  obtain ⟨hs, hk⟩ | ⟨hs, rfl⟩ := whenLoaded_next h
  · exact .inl ⟨hs, (answer_next_iff.mp hk).symm⟩
  · exact .inr ⟨hs, rfl⟩

/-- What `BYTE` can do. -/
theorem execByte_cases {b : Byte} {s t : State} (h : execByte b s = .next t) :
    (s.run = true ∧ t = respond okCode 0 0 (s.setReg (absorb s.w s.poly s.rpoly s.refIn s.reg b))) ∨
    (s.run = false ∧ t = respond (errorCode .sequenceError) 0 0 s) := by
  obtain ⟨hs, hk⟩ | ⟨hs, rfl⟩ := whenRunning_next h
  · exact .inl ⟨hs, (answer_next_iff.mp hk).symm⟩
  · exact .inr ⟨hs, rfl⟩

/-- What `FINAL` can do. -/
theorem execFinal_cases {s t : State} (h : execFinal s = .next t) :
    (s.run = true ∧ t = respond okCode (BitVec.ofNat 4 s.w.bytes) (zext64 (s.reg ^^^ s.xorOut)) s.closeRun) ∨
    (s.run = false ∧ t = respond (errorCode .sequenceError) 0 0 s) := by
  obtain ⟨hs, hk⟩ | ⟨hs, rfl⟩ := whenRunning_next h
  · exact .inl ⟨hs, (answer_next_iff.mp hk).symm⟩
  · exact .inr ⟨hs, rfl⟩

/-- What `HEXCH` can do. -/
theorem execHexch_cases {c : Byte} {s t : State} (h : execHexch c s = .next t) :
    (s.hfail = true ∧ t = respond (errorCode .malformedHexInput) 0 0 s) ∨
    (s.hfail = false ∧ isSep c = true ∧ t = respond okCode 0 0 s) ∨
    (s.hfail = false ∧ isSep c = false ∧ hexVal c = none ∧
      t = respond (errorCode .malformedHexInput) 0 0 s.failText) ∨
    (∃ d, s.hfail = false ∧ isSep c = false ∧ hexVal c = some d ∧ s.hhalf = true ∧
      t = respond okCode 1 ((s.hnib ++ d).setWidth 64) s.clearHalf) ∨
    (∃ d, s.hfail = false ∧ isSep c = false ∧ hexVal c = some d ∧ s.hhalf = false ∧
      t = respond okCode 0 0 (s.keepNibble d)) := by
  obtain ⟨hf, hk⟩ | ⟨hf, rfl⟩ := whenTextGood_next h
  · split at hk
    · exact .inr (.inl ⟨hf, ‹_›, (answer_next_iff.mp hk).symm⟩)
    · exact .inr (.inr (.inl ⟨hf, ‹_›, ‹_›, (raise_next_iff.mp hk).symm⟩))
    · exact .inr (.inr (.inr (.inr ⟨_, hf, ‹_›, ‹_›, ‹_›, (answer_next_iff.mp hk).symm⟩)))
    · exact .inr (.inr (.inr (.inl ⟨_, hf, ‹_›, ‹_›, ‹_›, (answer_next_iff.mp hk).symm⟩)))
  · exact .inl ⟨hf, rfl⟩

/-- What `HEXEND` can do. -/
theorem execHexend_cases {s t : State} (h : execHexend s = .next t) :
    ((s.hfail = true ∨ s.hhalf = true) ∧ t = respond (errorCode .malformedHexInput) 0 0 s.clearText) ∨
    (s.hfail = false ∧ s.hhalf = false ∧ t = respond okCode 0 0 s.clearText) := by
  unfold execHexend at h
  split at h
  · exact .inl ⟨by simpa using ‹(s.hfail || s.hhalf) = true›, (raise_next_iff.mp h).symm⟩
  · have hb := ‹(s.hfail || s.hhalf) = false›
    simp only [Bool.or_eq_false_iff] at hb
    exact .inr ⟨hb.1, hb.2, (answer_next_iff.mp h).symm⟩

/-- No command touches the inputs to come or the reset input. -/
theorem exec_keeps_port {i : Instr} {s t : State} (h : exec i s = .next t) :
    t.port = s.port ∧ t.inReset = s.inReset := by
  cases i with
  | ldspec =>
    obtain ⟨_, rfl⟩ | ⟨_, _, rfl⟩ | ⟨_, _, _, _, rfl⟩ | ⟨_, _, _, _, rfl⟩ := execLdspec_cases h <;>
      exact ⟨rfl, rfl⟩
  | start => obtain ⟨_, rfl⟩ | ⟨_, rfl⟩ := execStart_cases h <;> exact ⟨rfl, rfl⟩
  | byte b => obtain ⟨_, rfl⟩ | ⟨_, rfl⟩ := execByte_cases h <;> exact ⟨rfl, rfl⟩
  | final => obtain ⟨_, rfl⟩ | ⟨_, rfl⟩ := execFinal_cases h <;> exact ⟨rfl, rfl⟩
  | hexch c =>
    obtain ⟨_, rfl⟩ | ⟨_, _, rfl⟩ | ⟨_, _, _, rfl⟩ | ⟨_, _, _, _, _, rfl⟩ | ⟨_, _, _, _, _, rfl⟩ :=
      execHexch_cases h <;> exact ⟨rfl, rfl⟩
  | hexend => obtain ⟨_, rfl⟩ | ⟨_, _, rfl⟩ := execHexend_cases h <;> exact ⟨rfl, rfl⟩
  | _ => cases h; exact ⟨rfl, rfl⟩

/-- Releasing reset does something only while it is asserted. -/
theorem leaveReset_of_inReset {s : State} (h : s.inReset = true) :
    s.leaveReset = { s.resetRegisters with inReset := false } := by
  simp [State.leaveReset, h]

theorem leaveReset_of_not_inReset {s : State} (h : s.inReset = false) : s.leaveReset = s := by
  simp [State.leaveReset, h]

end Sys2Proof.Machine
end

