-- ==== Sys2Proof/Laws/PerInstr.lean ====
section
/-! SUPPORT. Statements made of every command, one lemma per constructor.

OperandFits: the command's operand passes the checks of the assembler (spec 30_encoding.md R49) and, in its word, no
reserved `arg` bit is set (R43). -/

namespace Sys2Proof.Laws.OperandFits

open Sys2Proof

/-- The command as syntax is well-formed: its line is accepted, and its `arg` lies under its used-bits mask. -/
def Statement (i : Instr) : Prop :=
  (listing i).wellFormed = true ∧ (argOf i).toNat < 2 ^ i.mnemonic.usedBits

theorem rowctl (width : Byte) (refIn refOut : Bool) : Statement (.rowctl width refIn refOut) :=
  ⟨listing_wellFormed _, argOf_lt _⟩

theorem rowpoly (poly : Word) : Statement (.rowpoly poly) :=
  ⟨listing_wellFormed _, argOf_lt _⟩

theorem rowinit (init : Word) : Statement (.rowinit init) :=
  ⟨listing_wellFormed _, argOf_lt _⟩

theorem rowxor (xorOut : Word) : Statement (.rowxor xorOut) :=
  ⟨listing_wellFormed _, argOf_lt _⟩

theorem ldspec : Statement (.ldspec) :=
  ⟨listing_wellFormed _, argOf_lt _⟩

theorem start : Statement (.start) :=
  ⟨listing_wellFormed _, argOf_lt _⟩

theorem byte (b : Byte) : Statement (.byte b) :=
  ⟨listing_wellFormed _, argOf_lt _⟩

theorem final : Statement (.final) :=
  ⟨listing_wellFormed _, argOf_lt _⟩

theorem refl8 (value : BitVec 8) : Statement (.refl8 value) :=
  ⟨listing_wellFormed _, argOf_lt _⟩

theorem refl16 (value : BitVec 16) : Statement (.refl16 value) :=
  ⟨listing_wellFormed _, argOf_lt _⟩

theorem refl32 (value : BitVec 32) : Statement (.refl32 value) :=
  ⟨listing_wellFormed _, argOf_lt _⟩

theorem hexch (c : Byte) : Statement (.hexch c) :=
  ⟨listing_wellFormed _, argOf_lt _⟩

theorem hexend : Statement (.hexend) :=
  ⟨listing_wellFormed _, argOf_lt _⟩

theorem fmt1be (value : BitVec 8) : Statement (.fmt1be value) :=
  ⟨listing_wellFormed _, argOf_lt _⟩

theorem fmt1le (value : BitVec 8) : Statement (.fmt1le value) :=
  ⟨listing_wellFormed _, argOf_lt _⟩

theorem fmt2be (value : BitVec 16) : Statement (.fmt2be value) :=
  ⟨listing_wellFormed _, argOf_lt _⟩

theorem fmt2le (value : BitVec 16) : Statement (.fmt2le value) :=
  ⟨listing_wellFormed _, argOf_lt _⟩

theorem fmt4be (value : BitVec 32) : Statement (.fmt4be value) :=
  ⟨listing_wellFormed _, argOf_lt _⟩

theorem fmt4le (value : BitVec 32) : Statement (.fmt4le value) :=
  ⟨listing_wellFormed _, argOf_lt _⟩

end Sys2Proof.Laws.OperandFits
end

