-- ==== Sys2Proof/Laws/Port.lean ====
section
/-! SUPPORT. The port: what a step does with each input, and how the host's drivers compose. -/

namespace Sys2Proof.Machine

open Sys2Proof

/-- What one word can do. -/
theorem runWord_cases (w : CmdWord) (s : State) :
    (∃ i, decode w = .ok i ∧ runWord w s = exec i s) ∨
    (∃ e, decode w = .error e ∧ runWord w s = .next (respond (errorCode .illegalCommand) 0 0 s)) := by
  unfold runWord
  split
  · exact .inl ⟨_, ‹_›, rfl⟩
  · exact .inr ⟨_, ‹_›, rfl⟩

/-- What a step can do. -/
theorem step_cases {s t : State} (h : step s = .next t) :
    (s.port = [] ∧ t = s) ∨
    (∃ w rest, s.port = .command w :: rest ∧ s.inReset = true ∧ t = s.takeEvent rest) ∨
    (∃ w rest, s.port = .command w :: rest ∧ s.inReset = false ∧ runWord w (s.takeEvent rest) = .next t) ∨
    (∃ c rest, s.port = .assertReset c :: rest ∧ t = (s.takeEvent rest).enterReset) ∨
    (∃ rest, s.port = .releaseReset :: rest ∧ t = (s.takeEvent rest).leaveReset) := by
  unfold step at h
  split at h
  · cases h
    exact .inl ⟨‹_›, rfl⟩
  · rename_i e rest hp
    cases e with
    | command w =>
      simp only [runEvent, takeEvent_inReset] at h
      split at h
      · cases h
        exact .inr (.inl ⟨w, rest, hp, ‹_›, rfl⟩)
      · exact .inr (.inr (.inl ⟨w, rest, hp, ‹_›, h⟩))
    | assertReset c =>
      cases h
      exact .inr (.inr (.inr (.inl ⟨c, rest, hp, rfl⟩)))
    | releaseReset =>
      cases h
      exact .inr (.inr (.inr (.inr ⟨rest, hp, rfl⟩)))

@[simp] theorem andThen_next {α β : Type} (a : α) (k : α → Host.Outcome β Fault Refusal) :
    andThen (.next a) k = k a := rfl

theorem andThen_eq_next {α β : Type} {o : Host.Outcome α Fault Refusal} {k : α → Host.Outcome β Fault Refusal} {b : β} :
    andThen o k = .next b ↔ ∃ a, o = .next a ∧ k a = .next b := by
  cases o <;> simp [andThen]

/-- What a host that presents an opcode with a value gets: the command where the value fits its used bits, `IllegalCommand`
where it does not. Nothing is truncated. -/
theorem runWord_operand (m : Mnemonic) (v : Word) (s : State) :
    runWord (opcodeOf m ++ v) s =
      if v.toNat < 2 ^ m.usedBits then exec (build m v) s else raise .illegalCommand s := by
  by_cases h : v.toNat < 2 ^ m.usedBits <;> simp [runWord, decode_operand, h]

theorem sendWords_cons (w : CmdWord) (ws : List CmdWord) (s : State) :
    sendWords (w :: ws) s = andThen (runWord w s) (sendWords ws) := rfl

@[simp] theorem sendWords_one (w : CmdWord) (s : State) : sendWords [w] s = runWord w s := by
  rw [sendWords_cons]
  cases runWord w s <;> rfl

@[simp] theorem usedBits_reflMnemonic (w : Width) : (reflMnemonic w).usedBits = w.bits := by
  cases w <;> rfl

@[simp] theorem usedBits_fmtMnemonic (w : Width) (le : Bool) : (fmtMnemonic w le).usedBits = w.bits := by
  cases w <;> cases le <;> rfl

/-- What `REFL w, v` does, for every value. -/
theorem sendWords_reflSeq (w : Width) (v : Word) (s : State) :
    sendWords (reflSeq w v) s =
      if v.toNat < 2 ^ w.bits then exec (build (reflMnemonic w) v) s else raise .illegalCommand s := by
  simp [reflSeq, runWord_operand]

/-- What `FMT nb, le, v` does, for every value. -/
theorem sendWords_fmtSeq (w : Width) (le : Bool) (v : Word) (s : State) :
    sendWords (fmtSeq w le v) s =
      if v.toNat < 2 ^ w.bits then exec (build (fmtMnemonic w le) v) s else raise .illegalCommand s := by
  simp [fmtSeq, runWord_operand]

/-- Sending two sequences of words one after the other. -/
theorem sendWords_append (ws vs : List CmdWord) (s : State) :
    sendWords (ws ++ vs) s = andThen (sendWords ws s) (sendWords vs) := by
  induction ws generalizing s with
  | nil => rfl
  | cons w ws ih =>
    rw [List.cons_append, sendWords_cons, sendWords_cons]
    cases runWord w s with
    | next t => simpa using ih t
    | fault r => rfl
    | refused r => rfl

@[simp] theorem sendAll_nil (s : State) : sendAll [] s = .next s := rfl

theorem sendAll_cons (i : Instr) (is : List Instr) (s : State) :
    sendAll (i :: is) s = andThen (runWord (encode i) s) (sendAll is) := rfl

/-- Sending two sequences one after the other. -/
theorem sendAll_append (is js : List Instr) (s : State) :
    sendAll (is ++ js) s = andThen (sendAll is s) (sendAll js) := by
  rw [sendAll, List.map_append, sendWords_append]
  rfl

/-- The responses beyond those of an earlier state. -/
theorem newResponses_of_append {s t : State} {rs : List Response} (h : t.responses = s.responses ++ rs) :
    newResponses s t = rs := by
  simp [newResponses, h]

end Sys2Proof.Machine
end

