-- ==== Sys2Proof/Machine/AsmText.lean ====
section
/-! DEFINITION. The assembler's text (spec 30_encoding.md R49): one command per line, a mnemonic in upper case, an operand as
a number in hexadecimal or decimal, as a character in single quotes, or as the named fields of `ROWCTL`; a semicolon
starts a comment, and an expected response may follow an arrow. Characters are the codes of 43_hex_codec.md R100. What R49
leaves open of the spelling is log entry 13. -/

namespace Sys2Proof.Machine

open Sys2Proof

/-- The mnemonic as it is written (R42). -/
def mnemonicText : Mnemonic → Text
  | .rowctl => [0x52, 0x4F, 0x57, 0x43, 0x54, 0x4C]  -- ROWCTL
  | .rowpoly => [0x52, 0x4F, 0x57, 0x50, 0x4F, 0x4C, 0x59]  -- ROWPOLY
  | .rowinit => [0x52, 0x4F, 0x57, 0x49, 0x4E, 0x49, 0x54]  -- ROWINIT
  | .rowxor => [0x52, 0x4F, 0x57, 0x58, 0x4F, 0x52]  -- ROWXOR
  | .ldspec => [0x4C, 0x44, 0x53, 0x50, 0x45, 0x43]  -- LDSPEC
  | .start => [0x53, 0x54, 0x41, 0x52, 0x54]  -- START
  | .byte => [0x42, 0x59, 0x54, 0x45]  -- BYTE
  | .final => [0x46, 0x49, 0x4E, 0x41, 0x4C]  -- FINAL
  | .refl8 => [0x52, 0x45, 0x46, 0x4C, 0x38]  -- REFL8
  | .refl16 => [0x52, 0x45, 0x46, 0x4C, 0x31, 0x36]  -- REFL16
  | .refl32 => [0x52, 0x45, 0x46, 0x4C, 0x33, 0x32]  -- REFL32
  | .hexch => [0x48, 0x45, 0x58, 0x43, 0x48]  -- HEXCH
  | .hexend => [0x48, 0x45, 0x58, 0x45, 0x4E, 0x44]  -- HEXEND
  | .fmt1be => [0x46, 0x4D, 0x54, 0x31, 0x2E, 0x42, 0x45]  -- FMT1.BE
  | .fmt1le => [0x46, 0x4D, 0x54, 0x31, 0x2E, 0x4C, 0x45]  -- FMT1.LE
  | .fmt2be => [0x46, 0x4D, 0x54, 0x32, 0x2E, 0x42, 0x45]  -- FMT2.BE
  | .fmt2le => [0x46, 0x4D, 0x54, 0x32, 0x2E, 0x4C, 0x45]  -- FMT2.LE
  | .fmt4be => [0x46, 0x4D, 0x54, 0x34, 0x2E, 0x42, 0x45]  -- FMT4.BE
  | .fmt4le => [0x46, 0x4D, 0x54, 0x34, 0x2E, 0x4C, 0x45]  -- FMT4.LE

/-- The nineteen mnemonics. -/
def allMnemonics : List Mnemonic :=
  [.rowctl, .rowpoly, .rowinit, .rowxor, .ldspec, .start, .byte, .final, .refl8, .refl16, .refl32, .hexch, .hexend,
   .fmt1be, .fmt1le, .fmt2be, .fmt2le, .fmt4be, .fmt4le]

/-- The mnemonic a word of the text is, in upper case only. -/
def mnemonicOfText (t : Text) : Option Mnemonic :=
  allMnemonics.find? fun m => mnemonicText m == t

/-- The words before `rest`, when the word `begun` has ended. -/
def endWord (begun : Text) (rest : List Text) : List Text :=
  if begun = [] then rest else begun :: rest

/-- The words of a line: cut at spaces, a quoted character whole, up to a semicolon or an arrow. The first argument is the
word begun so far. R49 does not say whether a quoted character, a semicolon or an arrow may follow a word with no space
between: each may, so a quoted character is a word of its own on both sides (DESIGN CHOICE, log entry 13). -/
def lineWords (begun : Text) : Text → List Text
  | [] => endWord begun []
  | 0x27 :: c :: 0x27 :: rest => endWord begun ([0x27, c, 0x27] :: lineWords [] rest)
  | c :: rest =>
    if c = 0x3B then endWord begun []
    else if c = 0x2D ∧ rest.head? = some 0x3E then endWord begun []
    else if c = 0x20 then endWord begun (lineWords [] rest)
    else lineWords (begun ++ [c]) rest

/-- A number written in digits of the given base, most significant first. -/
def digitsValue (base : Nat) (t : Text) : Option Nat :=
  if t = [] then none
  else t.foldl (fun acc c =>
    match acc, hexVal c with
    | some n, some d => if d.toNat < base then some (n * base + d.toNat) else none
    | _, _ => none) (some 0)

/-- A number: `0x` and hexadecimal digits, or decimal digits. -/
def numberOfText : Text → Option Nat
  | 0x30 :: 0x78 :: ds => digitsValue 16 ds
  | ds => digitsValue 10 ds

/-- A named field: its name, the sign 0x3D, and a number below the bound. -/
def namedField (name : Text) (bound : Nat) (t : Text) : Option Nat :=
  if t.take (name.length + 1) = name ++ [0x3D] then
    match numberOfText (t.drop (name.length + 1)) with
    | some n => if n < bound then some n else none
    | none => none
  else none

/-- The operand the words after a mnemonic stand for: none, a number, a character for `HEXCH`, or the fields `w`, `refin`,
`refout` for `ROWCTL`. The outer option is none for words that are no operand. R49 shows the named fields in one example and
does not say whether they may stand in another order or be left out: all three are demanded, in the order of the example
(DESIGN CHOICE, log entry 13). -/
def operandOfWords (m : Mnemonic) : List Text → Option (Option Nat)
  | [] => some none
  | [[0x27, c, 0x27]] => if m = .hexch then some (some c.toNat) else none
  | [t] =>
    match numberOfText t with
    | some n => some (some n)
    | none => none
  | [w, ri, ro] =>
    match namedField [0x77] (2 ^ 8) w, namedField [0x72, 0x65, 0x66, 0x69, 0x6E] 2 ri,
      namedField [0x72, 0x65, 0x66, 0x6F, 0x75, 0x74] 2 ro with
    | some a, some b, some c => if m = .rowctl then some (some (a + b * 2 ^ 8 + c * 2 ^ 9)) else none
    | _, _, _ => none
  | _ => none

/-- The assembler line a text line stands for; none for a text that is no command. -/
def lineOfText (t : Text) : Option AsmLine :=
  match lineWords [] t with
  | [] => none
  | word :: rest =>
    match mnemonicOfText word with
    | none => none
    | some m =>
      match operandOfWords m rest with
      | none => none
      | some operand => some ⟨m, operand⟩

/-- The assembler on text (R49): the command of the line, if it is well-formed. -/
def assembleText (t : Text) : Option Instr :=
  match lineOfText t with
  | none => none
  | some l => assemble l

end Sys2Proof.Machine
end

