-- ==== Sys2Proof/Tests/Slice0.lean ====
section
/-! SUPPORT. Tests of this model's own: the checks of WellFormed refuse what they should, a word written out from spec
30_encoding.md decodes for every command, one step of every command gives the response spec 95_test_vectors.md lists,
and for every statement of Certificates/Slice0 that has hypotheses a concrete state and operands that meet them. Every
expected value is taken from the section of 95_test_vectors.md its comment names, never from the model. -/

namespace Sys2Proof.Tests

open Sys2Proof Sys2Proof.Machine

/-! ## Helpers -/

/-- The last response after a step. -/
def lastRsp : Host.Outcome State Fault Refusal → Option Response
  | .next t => t.responses.getLast?
  | _ => none

/-- One field of the state after a step. -/
def fieldAfter {α : Type} (f : State → α) : Host.Outcome State Fault Refusal → Option α
  | .next t => some (f t)
  | _ => none

/-- A row staged, nothing loaded (95_test_vectors.md section 4). -/
def staged (ctl : BitVec 10) (poly init xorOut : Word) : State :=
  { State.reset with rowCtrl := ctl, rowPoly := poly, rowInit := init, rowXor := xorOut }

/-- CRC-8/ITU loaded: the start of section 3.8. -/
def ituLoaded : State :=
  { staged 0x008 0x07 0 0x55 with specv := true, w := .w8, poly := 0x07, xorOut := 0x55, rpoly := 0xE0 }

/-- CRC-8/ITU with a computation open. -/
def ituOpen : State := { ituLoaded with run := true }

/-- CRC-16/MODBUS with a computation open: P1 after `START`. -/
def modbusOpen : State :=
  { staged 0x310 0x8005 0xFFFF 0 with
    specv := true, w := .w16, poly := 0x8005, init := 0xFFFF, refIn := true, refOut := true, rpoly := 0xA001
    reg := 0xFFFF, run := true }

/-- CRC-32/MPEG-2 at the end of P4, before `FINAL`. -/
def mpegOpen : State :=
  { staged 0x020 0x04C11DB7 0xFFFFFFFF 0 with
    specv := true, w := .w32, poly := 0x04C11DB7, init := 0xFFFFFFFF, rpoly := 0xEDB88320
    reg := 0x0376E6E7, run := true }

/-- A text open with one digit pending: section 5.2 after `HEXCH '4'`. -/
def halfText : State := { State.reset with hhalf := true, hnib := 4 }

/-- A text that has failed. -/
def failedText : State := { State.reset with hfail := true }

/-- The rows of two named algorithms (93_implementation_defined.md G2, a premise of those tests). -/
def crc8Row : Row :=
  { name := [0x43, 0x52, 0x43, 0x2D, 0x38], width := 8, poly := 0x07, init := 0, refIn := false, refOut := false, xorOut := 0 }

/-- A row named as the other one, of width 16. -/
def modbusRow : Row :=
  { name := [0x43, 0x52, 0x43, 0x2D, 0x38], width := 16, poly := 0x8005, init := 0xFFFF, refIn := true, refOut := true
    xorOut := 0 }

/-! ## WellFormed: an ill-formed term for each check, which the check refuses -/

theorem test_wf_unknown_opcode : Cmd.opcodeKnown ⟨0x56, 0⟩ = false := by decide
theorem test_wf_reserved_bit : Cmd.reservedZero ⟨0x10, 0x400⟩ = false := by decide
theorem test_wf_legal_word : Cmd.wellFormed ⟨0x10, 0x3FF⟩ = true := by decide
theorem test_wf_operand_missing : AsmLine.operandPresence ⟨.byte, none⟩ = false := by decide
theorem test_wf_operand_extra : AsmLine.operandPresence ⟨.ldspec, some 0⟩ = false := by decide
theorem test_wf_operand_too_wide : AsmLine.operandFits ⟨.byte, some 0x132⟩ = false := by decide
theorem test_wf_legal_line : AsmLine.wellFormed ⟨.byte, some 0xFF⟩ = true := by decide

/-! ## Decode: a word for every command, and the words of section 6 that are none -/

/-- Bit by bit from R40 to R46, one or two of each unit: opcode in bits 39 to 32, operand below. -/
theorem test_decode_bits_rowctl :
    decode 0b0001000000000000000000000000001000010000 = .ok (.rowctl 16 false true) := by rfl
theorem test_decode_bits_ldspec : decode 0b0001010000000000000000000000000000000000 = .ok .ldspec := by rfl
theorem test_decode_bits_byte : decode 0b0010000100000000000000000000000010100101 = .ok (.byte 0xA5) := by rfl
theorem test_decode_bits_refl16 : decode 0b0011000100000000000000001000000000000101 = .ok (.refl16 0x8005) := by rfl
theorem test_decode_bits_hexch : decode 0b0100000000000000000000000000000001000110 = .ok (.hexch 0x46) := by rfl
theorem test_decode_bits_fmt2le : decode 0b0101001100000000000000000100101100110111 = .ok (.fmt2le 0x4B37) := by rfl

theorem test_decode_spec_load :
    decode 0x1000000310 = .ok (.rowctl 16 true true) ∧ decode 0x1000000108 = .ok (.rowctl 8 true false) ∧
    decode 0x1104C11DB7 = .ok (.rowpoly 0x04C11DB7) ∧ decode 0x12FFFFFFFF = .ok (.rowinit 0xFFFFFFFF) ∧
    decode 0x1300000055 = .ok (.rowxor 0x55) ∧ decode 0x1400000000 = .ok .ldspec :=
  ⟨rfl, rfl, rfl, rfl, rfl, rfl⟩

theorem test_decode_engine :
    decode 0x2000000000 = .ok .start ∧ decode 0x21000000FF = .ok (.byte 0xFF) ∧ decode 0x2200000000 = .ok .final :=
  ⟨rfl, rfl, rfl⟩

theorem test_decode_reflector :
    decode 0x3000000031 = .ok (.refl8 0x31) ∧ decode 0x310000FFFF = .ok (.refl16 0xFFFF) ∧
    decode 0x32FFFFFFFF = .ok (.refl32 0xFFFFFFFF) :=
  ⟨rfl, rfl, rfl⟩

theorem test_decode_hex_to_bytes :
    decode 0x4000000062 = .ok (.hexch 0x62) ∧ decode 0x4100000000 = .ok .hexend :=
  ⟨rfl, rfl⟩

theorem test_decode_bytes_to_hex :
    decode 0x50000000F4 = .ok (.fmt1be 0xF4) ∧ decode 0x51000000FF = .ok (.fmt1le 0xFF) ∧
    decode 0x5200004B37 = .ok (.fmt2be 0x4B37) ∧ decode 0x530000ABCD = .ok (.fmt2le 0xABCD) ∧
    decode 0x5412345678 = .ok (.fmt4be 0x12345678) ∧ decode 0x55FFFFFFFF = .ok (.fmt4le 0xFFFFFFFF) :=
  ⟨rfl, rfl, rfl, rfl, rfl, rfl⟩

theorem test_decode_no_opcode :
    ∀ w ∈ ([0x0000000000, 0xFF00000000, 0xFFFFFFFFFF, 0x1500000000, 0x2300000000, 0x3300000000, 0x4200000000,
        0x5600000000, 0x5700000000, 0x6000000000] : List CmdWord), decode w = .error .unknownOpcode := by
  intro w hw
  fin_cases hw <;> rfl

theorem test_decode_reserved_bit :
    ∀ w ∈ ([0x1000000400, 0x1400000001, 0x2000000001, 0x2200000001, 0x4100000001, 0x2100000100, 0x3000000100,
        0x4000000100, 0x5000000100, 0x5100000100, 0x3100010000, 0x5200010000, 0x5300010000] : List CmdWord),
      decode w = .error .reservedArgBits := by
  intro w hw
  fin_cases hw <;> rfl

theorem test_table_word : decodeTableWord 40 0x21000000A5 = some (.byte 0xA5) := by rfl

/-- P3 step 25 beside step 2: the word is judged before the gate. -/
theorem test_fetch_word :
    lastRsp (step (State.reset.withFetchWord 40 0x2100000100)) = some ⟨6, 0, 0⟩ ∧
    lastRsp (step (State.reset.withFetchWord 40 0x2100000031)) = some ⟨5, 0, 0⟩ := by decide

/-! ## The assembler's text: the examples of 30_encoding.md R49 -/

/-- "BYTE 0xA5 ; a" -/
theorem test_asm_hex : assembleText [0x42, 0x59, 0x54, 0x45, 0x20, 0x30, 0x78, 0x41, 0x35, 0x20, 0x3B, 0x20, 0x61] = some (.byte 0xA5) := by decide
/-- "HEXCH 'A'" and "HEXCH ' '" -/
theorem test_asm_char : assembleText [0x48, 0x45, 0x58, 0x43, 0x48, 0x20, 0x27, 0x41, 0x27] = some (.hexch 0x41) ∧
    assembleText [0x48, 0x45, 0x58, 0x43, 0x48, 0x20, 0x27, 0x20, 0x27] = some (.hexch 0x20) := by decide
/-- "ROWCTL w=16 refin=1 refout=1" -/
theorem test_asm_fields :
    assembleText
      ([0x52, 0x4F, 0x57, 0x43, 0x54, 0x4C, 0x20, 0x77, 0x3D, 0x31, 0x36, 0x20] ++
        [0x72, 0x65, 0x66, 0x69, 0x6E, 0x3D, 0x31, 0x20, 0x72, 0x65, 0x66, 0x6F, 0x75, 0x74, 0x3D, 0x31]) = some (.rowctl 16 true true) := by decide
/-- "FINAL -> OK 2 0x4B37" -/
theorem test_asm_expected : assembleText [0x46, 0x49, 0x4E, 0x41, 0x4C, 0x20, 0x2D, 0x3E, 0x20, 0x4F, 0x4B, 0x20, 0x32, 0x20, 0x30, 0x78, 0x34, 0x42, 0x33, 0x37] = some .final := by
  decide
/-- "BYTE 306" does not fit (0x132), and "byte 1" is not in upper case. -/
theorem test_asm_rejected : assembleText [0x42, 0x59, 0x54, 0x45, 0x20, 0x33, 0x30, 0x36] = none ∧
    assembleText [0x62, 0x79, 0x74, 0x65, 0x20, 0x31] = none := by decide

/-! ## One step of each command -/

/-- Section 4 and P1 step 1. -/
theorem test_rowctl : fieldAfter State.rowCtrl (exec (.rowctl 16 true true) State.reset) = some 0x310 := by decide
/-- P3 step 3. -/
theorem test_rowctl_flag : fieldAfter State.rowCtrl (exec (.rowctl 12 true false) State.reset) = some 0x10C := by decide
/-- P1 steps 2 to 4. -/
theorem test_rowpoly : fieldAfter State.rowPoly (exec (.rowpoly 0x8005) State.reset) = some 0x8005 := by decide
theorem test_rowinit : fieldAfter State.rowInit (exec (.rowinit 0xFFFF) State.reset) = some 0xFFFF := by decide
theorem test_rowxor : fieldAfter State.rowXor (exec (.rowxor 0x55) State.reset) = some 0x55 := by decide

/-- Section 4: the row of CRC-16/MODBUS is accepted and its reflected polynomial kept. -/
theorem test_ldspec_loads :
    fieldAfter (fun t => (t.specv, t.w, t.rpoly)) (exec .ldspec (staged 0x310 0x8005 0xFFFF 0)) =
      some (true, .w16, 0xA001) := by decide
/-- Section 4: a value that does not fit is reported before the asymmetric flags. -/
theorem test_ldspec_order : lastRsp (exec .ldspec (staged 0x108 0x107 0 0)) = some ⟨3, 0, 0⟩ := by decide

/-- P1 step 6: the initial value is loaded as it stands. -/
theorem test_start : fieldAfter State.reg (exec .start { modbusOpen with reg := 0, run := false }) = some 0xFFFF := by decide
/-- Section 3.8 step 7: a restart. -/
theorem test_start_again : fieldAfter (fun t => (t.reg, t.run)) (exec .start { ituOpen with reg := 0x72 }) =
    some (0x00, true) := by decide
/-- Section 3.2, MSB, 8. -/
theorem test_byte_msb : fieldAfter State.reg (exec (.byte 0x31) ituOpen) = some 0x97 := by decide
/-- Section 3.2, LSB, 16. -/
theorem test_byte_lsb : fieldAfter State.reg (exec (.byte 0x01) modbusOpen) = some 0x807E := by decide
/-- Section 3.8 step 9. -/
theorem test_final_xor : lastRsp (exec .final { ituOpen with reg := 0x97 }) = some ⟨0, 1, 0xC2⟩ := by decide
/-- P4 step 16. -/
theorem test_final_w32 : lastRsp (exec .final mpegOpen) = some ⟨0, 4, 0x0376E6E7⟩ := by decide

/-- Section 2. -/
theorem test_refl8 : lastRsp (exec (.refl8 0x31) State.reset) = some ⟨0, 1, 0x8C⟩ := by decide
theorem test_refl16 : lastRsp (exec (.refl16 0x1234) State.reset) = some ⟨0, 2, 0x2C48⟩ := by decide
theorem test_refl16_width : lastRsp (exec (.refl16 0x0007) State.reset) = some ⟨0, 2, 0xE000⟩ := by decide
theorem test_refl32 : lastRsp (exec (.refl32 0x12345678) State.reset) = some ⟨0, 4, 0x1E6A2C48⟩ := by decide

/-- Section 5.2, text "4b 37", second character. -/
theorem test_hexch_pair : lastRsp (exec (.hexch 0x62) halfText) = some ⟨0, 1, 0x4B⟩ := by decide
/-- Section 5.2: the tab is no separator. -/
theorem test_hexch_tab : fieldAfter State.hfail (exec (.hexch 0x09) State.reset) = some true := by decide
/-- Section 5.2: odd count, and then the empty text. -/
theorem test_hexend_odd : lastRsp (exec .hexend halfText) = some ⟨1, 0, 0⟩ := by decide
theorem test_hexend_empty : lastRsp (exec .hexend State.reset) = some ⟨0, 0, 0⟩ := by decide

/-- Section 5.3. -/
theorem test_fmt1be : lastRsp (exec (.fmt1be 0x0A) State.reset) = some ⟨0, 2, 0x4130⟩ := by decide
theorem test_fmt1le : lastRsp (exec (.fmt1le 0xF4) State.reset) = some ⟨0, 2, 0x3446⟩ := by decide
theorem test_fmt2be : lastRsp (exec (.fmt2be 0x4B37) State.reset) = some ⟨0, 4, 0x37334234⟩ := by decide
theorem test_fmt2le : lastRsp (exec (.fmt2le 0xABCD) State.reset) = some ⟨0, 4, 0x42414443⟩ := by decide
theorem test_fmt4be : lastRsp (exec (.fmt4be 0x0376E6E7) State.reset) = some ⟨0, 8, 0x3745364536373330⟩ := by decide
theorem test_fmt4le : lastRsp (exec (.fmt4le 0x0376E6E7) State.reset) = some ⟨0, 8, 0x3330363736453745⟩ := by decide

/-- Section 3.1. -/
theorem test_step_msb : stepMSB 0x1021 .w16 0xFFFF = 0xEFDF := by decide
theorem test_step_lsb : stepLSB 0xA001 0xFFFE = 0x7FFF := by decide

/-- The two instances at the end of 95_test_vectors.md: the bytes of "123456789", width 16, polynomial 0x1021. -/
theorem test_recipe_reflected_bytes :
    computeByRecipe .w16 0x1021 0 0 true false [0x31, 0x32, 0x33, 0x34, 0x35, 0x36, 0x37, 0x38, 0x39] = 0x9184 := by
  decide +kernel
theorem test_recipe_reflected_register :
    computeByRecipe .w16 0x1021 0 0 false true [0x31, 0x32, 0x33, 0x34, 0x35, 0x36, 0x37, 0x38, 0x39] = 0xC38C := by
  decide +kernel

/-! ## Witnesses: states and operands that meet the hypotheses of the statements -/

theorem no_command {w : CmdWord} {e : Reject} (h : decode w = .error e) (i : Instr) : decode w ≠ .ok i := by
  rw [h]
  exact nofun

theorem witness_EncodeDecodeAgree : decode 0x5300004B37 = .ok (.fmt2le 0x4B37) := by rfl

/-- The first opcode after the last legal one; and `ROWCTL` with its first reserved bit, and with all used bits. -/
theorem witness_ExactlyTheLegalWordsRun :
    (∀ p ∈ opcodeUse, p.1 ≠ 0x56) ∧ ((0x10 : BitVec 8), 10) ∈ opcodeUse ∧
    (0x400 : BitVec 32) &&& ~~~ 0x3FF ≠ 0 ∧ (0x3FF : BitVec 32) &&& ~~~ 0x3FF = 0 := by decide

theorem witness_OpcodeTableRowsMatch : (0x10000003FF : CmdWord) &&& 0xFFFFFFFC00 = 0x1000000000 := by decide

/-- `op` 0x57 and 0x56 (`sz = 3`) and 0x33 (`wc = 3`), and the smallest and largest legal opcode of each unit. -/
theorem witness_FmtAndReflOpcodeFields :
    (∀ op ∈ ([0x50, 0x51, 0x52, 0x53, 0x54, 0x55, 0x56, 0x57] : List (BitVec 8)), op.extractLsb' 3 5 = 0b01010#5) ∧
    (0x56 : BitVec 8).extractLsb' 1 2 = 3#2 ∧ (0x57 : BitVec 8).extractLsb' 1 2 = 3#2 ∧
    (0x51 : BitVec 8).extractLsb' 1 2 = 0#2 ∧ (0x51 : BitVec 8).getLsbD 0 = true ∧
    (0x54 : BitVec 8).extractLsb' 1 2 = 2#2 ∧ (0x54 : BitVec 8).getLsbD 0 = false ∧
    (∀ op ∈ ([0x30, 0x31, 0x32, 0x33] : List (BitVec 8)), op.extractLsb' 4 4 = 3#4) ∧
    3 ≤ ((0x33 : BitVec 8).extractLsb' 0 4).toNat ∧ (0x32 : BitVec 8).extractLsb' 0 4 = 2#4 := by decide

/-- A byte command waiting, in a computation. -/
def byteWaiting : State := { ituOpen with port := [.command 0x2100000031, .command 0x2200000000] }

theorem witness_StepRunsDecodedCommand :
    byteWaiting.port = .command 0x2100000031 :: [.command 0x2200000000] ∧ byteWaiting.inReset = false ∧
    decode 0x2100000031 = .ok (.byte 0x31) := ⟨rfl, rfl, rfl⟩

theorem witness_StepAnswersIllegalWord :
    ∃ s : State, s.port = .command 0x2100000132 :: [] ∧ s.inReset = false ∧ s.run = true ∧
      ∀ i, decode 0x2100000132 ≠ .ok i :=
  ⟨{ ituOpen with port := [.command 0x2100000132] }, rfl, rfl, rfl, no_command (e := .reservedArgBits) rfl⟩

theorem witness_ResetInputClearsTheBlock :
    (∃ s : State, s.run = true ∧ s.port = .assertReset (some 0x2100000031) :: []) ∧
    (∃ s : State, s.port = .command 0x2000000000 :: [] ∧ s.inReset = true) ∧
    (∃ s : State, s.port = .releaseReset :: [] ∧ s.inReset = true) :=
  ⟨⟨{ ituOpen with port := [.assertReset (some 0x2100000031)] }, rfl, rfl⟩,
   ⟨{ ituLoaded with port := [.command 0x2000000000], inReset := true }, rfl, rfl⟩,
   ⟨{ ituLoaded with port := [.releaseReset], inReset := true }, rfl, rfl⟩⟩

theorem witness_EveryCommandIsAnswered :
    byteWaiting.Inv ∧ byteWaiting.port = .command 0x2100000031 :: [.command 0x2200000000] ∧
    byteWaiting.inReset = false := by decide

theorem witness_StepNeverStops : ituOpen.port = [] := by rfl

theorem witness_PortRunsCommandsInOrder :
    byteWaiting.inReset = false ∧
    byteWaiting.port = [Instr.byte 0x31, .final].map (fun i => PortEvent.command (encode i)) ++ [] := by decide

theorem witness_StagingCommandsWriteTheirRegister :
    (0x3FF : BitVec 32).extractLsb' 10 22 = 0 ∧ (0x400 : BitVec 32).extractLsb' 10 22 ≠ 0 ∧
    (0x80000000 : BitVec 32).extractLsb' 10 22 ≠ 0 := by decide

/-- Each clause of the `LDSPEC` statement at a boundary: an open computation; width 9, and a polynomial, an initial value
and a mask of 2^8 at width 8; the two asymmetric flag settings with the largest polynomial of width 8; and the largest
rows of the three widths. -/
theorem witness_LdspecValidatesThenLoads :
    ituOpen.run = true ∧
    (∀ s ∈ [staged 0x009 0 0 0, staged 0x008 0x100 0 0, staged 0x008 0xFF 0x100 0, staged 0x008 0xFF 0xFF 0x100,
        staged 0x010 0x10000 0 0, staged 0x040 0 0 0, State.reset],
      s.run = false ∧ wellFormedWidth (rowWidth s.rowCtrl) s.rowPoly.toNat s.rowInit.toNat s.rowXor.toNat = none) ∧
    (∀ s ∈ [staged 0x108 0xFF 0xFF 0xFF, staged 0x208 0xFF 0xFF 0xFF],
      s.run = false ∧
      wellFormedWidth (rowWidth s.rowCtrl) s.rowPoly.toNat s.rowInit.toNat s.rowXor.toNat = some .w8 ∧
      s.rowCtrl.getLsbD 8 ≠ s.rowCtrl.getLsbD 9) ∧
    (∀ s ∈ [staged 0x008 0xFF 0xFF 0xFF, staged 0x310 0xFFFF 0xFFFF 0xFFFF,
        staged 0x320 0xFFFFFFFF 0xFFFFFFFF 0xFFFFFFFF],
      s.run = false ∧
      (wellFormedWidth (rowWidth s.rowCtrl) s.rowPoly.toNat s.rowInit.toNat s.rowXor.toNat).isSome ∧
      s.rowCtrl.getLsbD 8 = s.rowCtrl.getLsbD 9) := by decide

theorem witness_ValidationNeverTruncates :
    ∃ t, exec .ldspec (staged 0x310 0xFFFF 0xFFFF 0xFFFF) = .next t ∧ t.responses = [] ++ [⟨0, 0, 0⟩] := ⟨_, rfl, rfl⟩

/-- Values of the full width, with the top bit set. -/
theorem witness_ReflectorLaws :
    (0xFF : Word).toNat < 2 ^ Width.w8.bits ∧ (0x8000 : Word).toNat < 2 ^ Width.w16.bits ∧
    (0xFFFFFFFF : Word).toNat < 2 ^ Width.w32.bits := by decide

/-- The last bit of each width, for the statements that name a bit or a character by its place. -/
theorem witness_ReflectReversesBits : 7 < Width.w8.bits ∧ 15 < Width.w16.bits ∧ 31 < Width.w32.bits := by decide

theorem witness_ReflCommandsAnswerTheReflection : 7 < 8 ∧ 15 < 16 ∧ 31 < 32 := by decide

theorem witness_FmtCommandsAnswerTheText : 1 < 2 ∧ 3 < 4 ∧ 7 < 8 := by decide

/-- The hypotheses of the step, width, mirror and linearity statements, at the largest values of each width. -/
theorem witness_engine_values :
    ∀ p ∈ [(Width.w8, (0xFF : Word)), (.w16, 0xFFFF), (.w32, 0xFFFFFFFF)], p.2.toNat < 2 ^ p.1.bits := by decide

theorem witness_StartOpensAComputation :
    (1 : BitVec 32) ≠ 0 ∧ ituOpen.specv = true ∧ State.reset.specv = false := by decide

theorem witness_ByteShiftsEightTimes :
    (ituOpen.run = true ∧ ituOpen.refIn = false) ∧ (modbusOpen.run = true ∧ modbusOpen.refIn = true) ∧
    ituLoaded.run = false := by decide

theorem witness_FinalAnswersTheChecksum : (1 : BitVec 32) ≠ 0 ∧ mpegOpen.run = true ∧ ituLoaded.run = false := by decide

theorem witness_ReflectedModeMirrorsMessages :
    modbusOpen.activeSpec.refIn = true ∧ modbusOpen.activeSpec.poly.toNat < 2 ^ modbusOpen.activeSpec.w.bits ∧
    modbusOpen.activeSpec.init.toNat < 2 ^ modbusOpen.activeSpec.w.bits := by decide

theorem witness_RegisterIsPolynomialRemainder :
    mpegOpen.activeSpec.refIn = false ∧ mpegOpen.activeSpec.poly.toNat < 2 ^ mpegOpen.activeSpec.w.bits ∧
    mpegOpen.activeSpec.init.toNat < 2 ^ mpegOpen.activeSpec.w.bits := by decide

theorem witness_LoadThenComputeAnswersCompute :
    State.reset.run = false ∧ mpegOpen.activeSpec.poly.toNat < 2 ^ mpegOpen.activeSpec.w.bits ∧
    mpegOpen.activeSpec.init.toNat < 2 ^ mpegOpen.activeSpec.w.bits ∧
    mpegOpen.activeSpec.xorOut.toNat < 2 ^ mpegOpen.activeSpec.w.bits := by decide

/-- P5: staging, and a refused `LDSPEC`, inside a computation. -/
theorem witness_FinalDependsOnlyOnSpecAndBytes :
    ituLoaded.Inv ∧ ituLoaded.specv = true ∧
    ∀ i ∈ [Instr.rowctl 16 false false, .ldspec, .byte 0x31, .hexch 0x67], i ≠ .start ∧ i ≠ .final := by decide

theorem witness_EmptyMessageAnswersInitXorOut : ituLoaded.specv = true := by rfl

/-- A clause of `HEXCH` each: failed text; space; both ends of the digit classes, first and second of a pair; the codes
just outside the classes. -/
theorem witness_HexchFollowsItsRule :
    ¬ (0x100 : BitVec 32).toNat < 2 ^ 8 ∧ (0xFF : BitVec 32).toNat < 2 ^ 8 ∧ failedText.hfail = true ∧ State.reset.hfail = false ∧
    State.reset.hhalf = false ∧ halfText.hfail = false ∧ halfText.hhalf = true ∧
    hexVal 0x30 = some 0 ∧ hexVal 0x39 = some 9 ∧ hexVal 0x41 = some 10 ∧ hexVal 0x46 = some 15 ∧
    hexVal 0x61 = some 10 ∧ hexVal 0x66 = some 15 ∧
    ∀ c ∈ ([0x2F, 0x3A, 0x40, 0x47, 0x60, 0x67, 0x00, 0x09, 0x0A, 0x0D, 0x78, 0x80, 0xFF] : List Byte),
      c ≠ 0x20 ∧ hexVal c = none := by decide

theorem witness_HexendGivesTheVerdict :
    (1 : BitVec 32) ≠ 0 ∧ (failedText.hfail = true ∨ failedText.hhalf = true) ∧
    (halfText.hfail = true ∨ halfText.hhalf = true) ∧ State.reset.hfail = false ∧ State.reset.hhalf = false := by decide

theorem witness_BlockParsesHexText : ituOpen.ParserAtRest := by decide

/-- A foreign character; an odd count; an even count with a space inside a pair ("0 1"). -/
theorem witness_ParseHexIsStrict :
    (∃ c ∈ ([0x31, 0x47] : Text), c ≠ 0x20 ∧ hexVal c = none) ∧
    (([0x31, 0x32, 0x20, 0x33] : Text).countP fun c => (hexVal c).isSome) % 2 = 1 ∧
    (∀ c ∈ ([0x30, 0x20, 0x31] : Text), c = 0x20 ∨ hexVal c ≠ none) ∧
    (([0x30, 0x20, 0x31] : Text).countP fun c => (hexVal c).isSome) % 2 = 0 ∧
    (([0x30, 0x20, 0x31] : Text).filterMap hexVal)[2 * 0]? = some 0 ∧
    (([0x30, 0x20, 0x31] : Text).filterMap hexVal)[2 * 0 + 1]? = some 1 := by decide

/-- One word for each error code the block gives, and the boundary neighbours of P3. -/
theorem witness_ErrorsHaveExactlyTheseCauses :
    (∃ t, runWord 0x4000000067 halfText = .next t ∧ t.responses = halfText.responses ++ [⟨1, 0, 0⟩]) ∧
    (∃ t, runWord 0x4100000000 halfText = .next t ∧ t.responses = halfText.responses ++ [⟨1, 0, 0⟩]) ∧
    (∃ t, runWord 0x1400000000 State.reset = .next t ∧ t.responses = State.reset.responses ++ [⟨3, 0, 0⟩]) ∧
    (∃ t, runWord 0x1400000000 (staged 0x108 0xFF 0 0) = .next t ∧ t.responses = [] ++ [⟨4, 0, 0⟩]) ∧
    (∃ t, runWord 0x1400000000 ituOpen = .next t ∧ t.responses = ituOpen.responses ++ [⟨5, 0, 0⟩]) ∧
    (∃ t, runWord 0x2100000100 ituOpen = .next t ∧ t.responses = ituOpen.responses ++ [⟨6, 0, 0⟩]) :=
  ⟨⟨_, rfl, rfl⟩, ⟨_, rfl, rfl⟩, ⟨_, rfl, rfl⟩, ⟨_, rfl, rfl⟩, ⟨_, rfl, rfl⟩, ⟨_, rfl, rfl⟩⟩

/-- The three ways a failing command leaves the registers: unchanged, text failed, text closed. -/
theorem witness_FailingCommandWritesNoState :
    (∃ t, runWord 0x2200000000 State.reset = .next t ∧ t.responses = [] ++ [⟨5, 0, 0⟩] ∧ (5 : BitVec 8) ≠ 0) ∧
    (∃ t, runWord 0x400000002F State.reset = .next t ∧ t.responses = [] ++ [⟨1, 0, 0⟩] ∧ t.hfail = true) ∧
    (∃ t, runWord 0x4100000000 halfText = .next t ∧ t.responses = [] ++ [⟨1, 0, 0⟩] ∧ t.hhalf = false) :=
  ⟨⟨_, rfl, rfl, by decide⟩, ⟨_, rfl, rfl, rfl⟩, ⟨_, rfl, rfl, rfl⟩⟩

theorem witness_SameFailureRepeats :
    Instr.hexch 0x67 ≠ .hexend ∧
    ∃ t r, exec (.hexch 0x67) State.reset = .next t ∧ t.responses = State.reset.responses ++ [r] ∧ r.st ≠ 0 :=
  ⟨by decide, _, _, rfl, rfl, by decide⟩

/-- One command of each unit. -/
theorem witness_EachUnitWritesOnlyItsRegisters :
    (∃ t, exec (.hexch 0x34) State.reset = .next t) ∧ (∃ t, exec (.rowpoly 7) State.reset = .next t) ∧
    (∃ t, exec .ldspec (staged 0x008 0x07 0 0) = .next t) ∧ (∃ t, exec (.byte 0x31) ituOpen = .next t) ∧
    (∃ t, exec (.refl8 1) State.reset = .next t) ∧
    (Instr.hexch 0x34).isParser = true ∧ (Instr.rowpoly 7).isStaging = true ∧ (Instr.byte 0x31).isEngine = true ∧
    (Instr.refl8 1).isStateless = true :=
  ⟨⟨_, rfl⟩, ⟨_, rfl⟩, ⟨_, rfl⟩, ⟨_, rfl⟩, ⟨_, rfl⟩, rfl, rfl, rfl, rfl⟩

/-- A parser command from two states with different engines; an engine command from two states with different parsers. -/
theorem witness_ParserAndEngineDoNotSeeEachOther :
    (∃ t v, exec (.hexch 0x62) halfText = .next t ∧
      exec (.hexch 0x62) { ituOpen with hhalf := true, hnib := 4 } = .next v) ∧
    (∃ t v, exec (.byte 0x31) ituOpen = .next t ∧ exec (.byte 0x31) { ituOpen with hhalf := true, hnib := 4 } = .next v) :=
  ⟨⟨_, _, rfl, rfl⟩, ⟨_, _, rfl, rfl⟩⟩

/-- `SPECV` cleared by asserting reset; by releasing it, in a state no run reaches; and set by `LDSPEC`. -/
theorem witness_SpecvChangesOnlyByLdspecAndReset :
    (∃ s t : State, step s = .next t ∧ s.port = .assertReset none :: [] ∧ s.specv = true ∧ t.specv = false) ∧
    (∃ s t : State, step s = .next t ∧ s.port = .releaseReset :: [] ∧ s.specv = true ∧ t.specv = false) ∧
    (∃ s t : State, step s = .next t ∧ s.port = .command 0x1400000000 :: [] ∧ s.specv = false ∧ t.specv = true) :=
  ⟨⟨{ ituLoaded with port := [.assertReset none] }, _, rfl, rfl, rfl, rfl⟩,
   ⟨{ ituLoaded with port := [.releaseReset], inReset := true }, _, rfl, rfl, rfl, rfl⟩,
   ⟨{ staged 0x008 0x07 0 0 with port := [.command 0x1400000000] }, _, rfl, rfl, rfl, rfl⟩⟩

/-- `RUN` set by `START`, cleared by `FINAL` and by reset, kept by a refused `LDSPEC`. -/
theorem witness_RunGuardsTheActiveSpec :
    (∃ s t : State, step s = .next t ∧ s.port = .command 0x2000000000 :: [] ∧ s.run = false ∧ t.run = true) ∧
    (∃ s t : State, step s = .next t ∧ s.port = .command 0x2200000000 :: [] ∧ s.run = true ∧ t.run = false) ∧
    (∃ s t : State, step s = .next t ∧ s.port = .assertReset none :: [] ∧ s.run = true ∧ t.run = false) ∧
    (∃ s t : State, step s = .next t ∧ s.port = .command 0x1400000000 :: [] ∧ s.run = true ∧ t.run = true) :=
  ⟨⟨{ ituLoaded with port := [.command 0x2000000000] }, _, rfl, rfl, rfl, rfl⟩,
   ⟨{ ituOpen with port := [.command 0x2200000000] }, _, rfl, rfl, rfl, rfl⟩,
   ⟨{ ituOpen with port := [.assertReset none] }, _, rfl, rfl, rfl, rfl⟩,
   ⟨{ ituOpen with port := [.command 0x1400000000] }, _, rfl, rfl, rfl, rfl⟩⟩

theorem witness_OnlyHexchOpensAText :
    (∃ t, exec (.byte 0x31) ituOpen = .next t ∧ (∀ c, Instr.byte 0x31 ≠ .hexch c) ∧ ituOpen.ParserAtRest) ∧
    (∃ t, exec .hexend halfText = .next t) :=
  ⟨⟨_, rfl, nofun, by decide⟩, ⟨_, rfl⟩⟩

theorem witness_StepKeepsInv : byteWaiting.Inv ∧ ∃ t, step byteWaiting = .next t := ⟨by decide, _, rfl⟩

/-- The reset state with other values in every register the spec leaves unspecified. -/
def otherReset : State :=
  { State.reset with
    w := .w32, poly := 1, init := 2, xorOut := 3, refIn := true, refOut := true, rpoly := 4, reg := 5, hnib := 6 }

theorem witness_UnspecifiedRegistersStayUnobservable :
    State.reset.Inv ∧ otherReset.Inv ∧ State.reset.SameView otherReset :=
  ⟨by decide, by decide, by simp [State.SameView, State.reset, otherReset]⟩

/-- A row of each outcome: accepted, asymmetric, ill-formed (section 7: a 17-bit polynomial at width 16). -/
theorem witness_LoadingARowAgreesWithIngestion :
    State.reset.run = false ∧ ingestRow crc8Row = .ok crc8Row ∧ crc8Row.refIn = crc8Row.refOut ∧
    ingestRow { crc8Row with refIn := true } = .ok { crc8Row with refIn := true } ∧
    ingestRow { modbusRow with poly := 0x18005 } = .error .invalidSpec ∧
    { modbusRow with poly := 0x18005 } ∈ [{ modbusRow with poly := 0x18005 }, modbusRow] ∧
    modbusRow ∈ [{ modbusRow with poly := 0x18005 }, modbusRow] ∧ ingestRow modbusRow = .ok modbusRow :=
  ⟨rfl, rfl, rfl, rfl, rfl, by decide, by decide, rfl⟩

/-- Section 7's rejected row (a 17-bit polynomial) does not enter the table, so it hides no later row of its name. -/
theorem test_rejected_row_stays_out :
    lookUp (formTable [{ modbusRow with poly := 0x18005 }, modbusRow]) modbusRow.name .w16 = some modbusRow := by decide

/-- Sections 2 and 5.3: the pseudo-instructions of R50 expand to the words listed, a value too wide for its command to the
illegal word. -/
theorem test_pseudo_words :
    reflSeq .w8 0x31 = [0x3000000031] ∧ reflSeq .w8 0x100 = [0x3000000100] ∧ reflSeq .w16 0x8005 = [0x3100008005] ∧
    fmtSeq .w8 false 0x100 = [0x5000000100] ∧ fmtSeq .w16 false 0x4B37 = [0x5200004B37] := by decide

/-- The same sections: `REFL8 0x31` is answered 0x8C, `REFL8 0x100` and `FMT1.BE 0x100` are answered `IllegalCommand`. -/
theorem test_pseudo_too_wide :
    lastRsp (sendWords (reflSeq .w8 0x31) State.reset) = some ⟨0, 1, 0x8C⟩ ∧
    lastRsp (sendWords (reflSeq .w8 0x100) State.reset) = some ⟨6, 0, 0⟩ ∧
    lastRsp (sendWords (fmtSeq .w8 false 0x100) State.reset) = some ⟨6, 0, 0⟩ := by decide

/-- The table holds the name in two widths; neither is of width 32; the second row is found behind the first. -/
theorem witness_DispatchUsesTheFirstMatchingRow :
    (∀ row ∈ [crc8Row, modbusRow], ¬ (row.name = crc8Row.name ∧ row.width = Width.w32.bits)) ∧
    (∀ r ∈ [crc8Row], ¬ (r.name = crc8Row.name ∧ r.width = Width.w16.bits)) ∧
    modbusRow.name = crc8Row.name ∧ modbusRow.width = Width.w16.bits ∧ ∃ sp, specOfRow modbusRow = .ok sp :=
  ⟨by decide, by decide, rfl, rfl, _, rfl⟩

theorem witness_BlockComputesChecksums : ituLoaded.Quiescent := by decide

/-- "0G" is malformed; "01" is not, and "NOPE" is in no table; "01" under CRC-8 has a result. -/
theorem witness_ChecksumStagesRunInOrder :
    parseHex [0x30, 0x47] = .error .malformedHexInput ∧ parseHex [0x30, 0x31] = .ok [0x01] ∧
    lookUp [crc8Row] [0x4E, 0x4F, 0x50, 0x45] .w8 = none ∧
    ∃ c, dispatch [crc8Row] crc8Row.name .w8 [0x01] = .ok c :=
  ⟨rfl, rfl, rfl, _, rfl⟩

end Sys2Proof.Tests
end

section
/-! PROOF. Facts of the decoder at a word given by its two fields (spec 30_encoding.md R42 to R48), and the two
statements about which words run a command and which operand they carry. -/

namespace Sys2Proof

/-- An opcode is outside the map of R42 exactly when it is the opcode of no mnemonic. -/
theorem mnemonicOf_eq_none_iff {op : BitVec 8} : mnemonicOf op = none ↔ ∀ m, opcodeOf m ≠ op := by
  constructor
  · rintro h m rfl
    simp [mnemonicOf_opcodeOf] at h
  · intro h
    cases hm : mnemonicOf op with
    | none => rfl
    | some m => exact absurd (opcodeOf_of_mnemonicOf hm) (h m)

theorem decode_append_of_none {op : BitVec 8} (h : mnemonicOf op = none) (arg : Word) :
    decode (op ++ arg) = .error .unknownOpcode := by
  simp only [decode, opField_append, h]

/-- A word whose opcode belongs to `m` is judged by the mask of `m` alone (R47). -/
theorem decode_opcodeOf_append (m : Mnemonic) (arg : Word) :
    decode (opcodeOf m ++ arg) =
      if arg &&& ~~~ usedMask m = 0 then .ok (build m arg) else .error .reservedArgBits := by
  simp only [decode, opField_append, argField_append, mnemonicOf_opcodeOf]

/-- A command that comes out of the decoder was built by the mnemonic of its opcode from its `arg`. -/
theorem eq_build_of_decode_append {op : BitVec 8} {arg : Word} {m : Mnemonic} {i : Instr}
    (hm : mnemonicOf op = some m) (h : decode (op ++ arg) = .ok i) : i = build m arg := by
  rw [← opcodeOf_of_mnemonicOf hm, decode_opcodeOf_append] at h
  split at h
  · exact (Except.ok.inj h).symm
  · cases h

/-- The width a size code of R45 or R46 selects; every code from 3 on is illegal. -/
def widthOfCode : Nat → Option Width
  | 0 => some .w8
  | 1 => some .w16
  | 2 => some .w32
  | _ => none

theorem widthOfCode_of_three_le {n : Nat} (h : 3 ≤ n) : widthOfCode n = none := by
  obtain ⟨k, rfl⟩ := Nat.exists_eq_add_of_le' h
  rfl

end Sys2Proof

namespace Sys2Proof.Machine

open Sys2Proof

theorem mem_allMnemonics (m : Mnemonic) : m ∈ allMnemonics := by cases m <;> decide

/-- R45: the fields `sz` and `le` of an opcode select the `FMT` command. -/
theorem mnemonicOf_fmtOpcode (op : BitVec 8) (h : op.extractLsb' 3 5 = 0b01010#5) :
    mnemonicOf op = (widthOfCode (op.extractLsb' 1 2).toNat).map (fmtMnemonic · (op.getLsbD 0)) := by
  revert op
  decide

/-- R46: the field `wc` of an opcode selects the `REFL` command. -/
theorem mnemonicOf_reflOpcode (op : BitVec 8) (h : op.extractLsb' 4 4 = 3#4) :
    mnemonicOf op = (widthOfCode (op.extractLsb' 0 4).toNat).map reflMnemonic := by
  revert op
  decide

/-- What a word with an `FMT` opcode decodes to, for each legal `sz`. -/
theorem eq_build_fmt_of_decode {op : BitVec 8} {arg : Word} {i : Instr} (hop : op.extractLsb' 3 5 = 0b01010#5)
    (h : decode (op ++ arg) = .ok i) {sz : BitVec 2} {w : Width} (hw : widthOfCode sz.toNat = some w) {le : Bool}
    (hsz : op.extractLsb' 1 2 = sz) (hle : op.getLsbD 0 = le) : i = build (fmtMnemonic w le) arg :=
  eq_build_of_decode_append (by rw [mnemonicOf_fmtOpcode op hop, hsz, hw, hle]; rfl) h

/-- What a word with a `REFL` opcode decodes to, for each legal `wc`. -/
theorem eq_build_refl_of_decode {op : BitVec 8} {arg : Word} {i : Instr} (hop : op.extractLsb' 4 4 = 3#4)
    (h : decode (op ++ arg) = .ok i) {wc : BitVec 4} {w : Width} (hw : widthOfCode wc.toNat = some w)
    (hwc : op.extractLsb' 0 4 = wc) : i = build (reflMnemonic w) arg :=
  eq_build_of_decode_append (by rw [mnemonicOf_reflOpcode op hop, hwc, hw]; rfl) h

theorem runWord_of_decode_ok {w : CmdWord} {i : Instr} (h : decode w = .ok i) (s : State) :
    runWord w s = exec i s := by
  simp only [runWord, h]

/-- R146: a word that is no command is answered code 6, and no register changes. -/
theorem runWord_of_decode_error {w : CmdWord} {e : Reject} (h : decode w = .error e) (s : State) :
    runWord w s = .next { s with responses := s.responses ++ [⟨6, 0, 0⟩] } := by
  simp only [runWord, h]
  exact raise_eq .illegalCommand s

/-- Settles O4: the table of the statement is `opcodeOf` with `usedMask` over `allMnemonics`, so an opcode outside it has
no mnemonic and an opcode in it is judged by its mask. -/
theorem exactlyTheLegalWordsRun : Obligations.ExactlyTheLegalWordsRun := by
  unfold Obligations.ExactlyTheLegalWordsRun
  intro table op arg s
  have htable : table = allMnemonics.map fun m => (opcodeOf m, usedMask m) := rfl
  simp only [htable, List.forall_mem_map]
  refine ⟨fun hop => ?_, fun m _ hop => ?_⟩
  · have herr := decode_append_of_none (mnemonicOf_eq_none_iff.mpr fun m => hop m (mem_allMnemonics m)) arg
    exact ⟨herr, runWord_of_decode_error herr s⟩
  · subst hop
    have hdec := decode_opcodeOf_append m arg
    refine ⟨fun hres => ?_, fun hres => ?_⟩
    · rw [if_neg hres] at hdec
      exact ⟨hdec, runWord_of_decode_error hdec s⟩
    · rw [if_pos hres] at hdec
      exact ⟨_, hdec, runWord_of_decode_ok hdec s⟩

/-- Settles O7: the size and order fields determine the mnemonic, and the mnemonic the operand taken from `arg`. -/
theorem fmtAndReflOpcodeFields : Obligations.FmtAndReflOpcodeFields := by
  intro op arg
  refine ⟨fun hop => ⟨fun hsz => decode_append_of_none ?_ arg, fun i hi => ?_⟩,
    fun hop => ⟨fun hwc => decode_append_of_none ?_ arg, fun i hi => ?_⟩⟩
  · rw [mnemonicOf_fmtOpcode op hop, hsz]
    rfl
  · exact ⟨eq_build_fmt_of_decode hop hi (w := .w8) rfl, eq_build_fmt_of_decode hop hi (w := .w8) rfl,
      eq_build_fmt_of_decode hop hi (w := .w16) rfl, eq_build_fmt_of_decode hop hi (w := .w16) rfl,
      eq_build_fmt_of_decode hop hi (w := .w32) rfl, eq_build_fmt_of_decode hop hi (w := .w32) rfl⟩
  · rw [mnemonicOf_reflOpcode op hop, widthOfCode_of_three_le hwc]
    rfl
  · exact ⟨eq_build_refl_of_decode hop hi (w := .w8) rfl, eq_build_refl_of_decode hop hi (w := .w16) rfl,
      eq_build_refl_of_decode hop hi (w := .w32) rfl⟩

end Sys2Proof.Machine
end

section
/-! PROOF. The response of a command (spec 30_encoding.md R41): every command ends in a next state, and the one response
it appends is valid. -/

namespace Sys2Proof.Machine

open Sys2Proof

/-! ## A command always ends in a next state (30_encoding.md R47) -/

theorem answer_total (n : BitVec 4) (data : RspData) (s : State) : ∃ t, answer n data s = .next t := ⟨_, rfl⟩

theorem raise_total (e : ErrorKind) (s : State) : ∃ t, raise e s = .next t := ⟨_, rfl⟩

theorem whenLoaded_total (s : State) {k : Host.Outcome State Fault Refusal} (hk : ∃ t, k = .next t) :
    ∃ t, whenLoaded s k = .next t := by
  unfold whenLoaded
  split
  · exact hk
  · exact raise_total _ _

theorem whenRunning_total (s : State) {k : Host.Outcome State Fault Refusal} (hk : ∃ t, k = .next t) :
    ∃ t, whenRunning s k = .next t := by
  unfold whenRunning
  split
  · exact hk
  · exact raise_total _ _

theorem whenIdle_total (s : State) {k : Host.Outcome State Fault Refusal} (hk : ∃ t, k = .next t) :
    ∃ t, whenIdle s k = .next t := by
  unfold whenIdle
  split
  · exact raise_total _ _
  · exact hk

theorem whenTextGood_total (s : State) {k : Host.Outcome State Fault Refusal} (hk : ∃ t, k = .next t) :
    ∃ t, whenTextGood s k = .next t := by
  unfold whenTextGood
  split
  · exact raise_total _ _
  · exact hk

theorem execLdspec_total (s : State) : ∃ t, execLdspec s = .next t := by
  apply whenIdle_total
  split
  · exact raise_total _ _
  · split
    · exact answer_total _ _ _
    · exact raise_total _ _

theorem execHexch_total (c : Byte) (s : State) : ∃ t, execHexch c s = .next t := by
  apply whenTextGood_total
  split
  · exact answer_total _ _ _
  · exact raise_total _ _
  · exact answer_total _ _ _
  · exact answer_total _ _ _

theorem execHexend_total (s : State) : ∃ t, execHexend s = .next t := by
  unfold execHexend
  split
  · exact raise_total _ _
  · exact answer_total _ _ _

/-- No command faults and none is refused. -/
theorem exec_total (i : Instr) (s : State) : ∃ t, exec i s = .next t := by
  cases i with
  | ldspec => exact execLdspec_total s
  | start => exact whenLoaded_total s (answer_total _ _ _)
  | byte b => exact whenRunning_total s (answer_total _ _ _)
  | final => exact whenRunning_total s (answer_total _ _ _)
  | hexch c => exact execHexch_total c s
  | hexend => exact execHexend_total s
  | _ => exact answer_total _ _ _

/-! ## The responses that are given are valid (30_encoding.md R41, 60_exceptions.md R140) -/

/-- A success with one of the item counts of R41 and zeros above its items. -/
theorem valid_ok {k : Nat} {data : RspData} (hk : k ∈ [0, 1, 2, 4, 8]) (hdata : data.toNat < 2 ^ (8 * k)) :
    Response.Valid ⟨okCode, BitVec.ofNat 4 k, data⟩ := by
  refine .inl ⟨rfl, ?_, ?_⟩
  · fin_cases hk <;> simp
  · have hcount : (BitVec.ofNat 4 k).toNat = k := by fin_cases hk <;> rfl
    rwa [hcount]

theorem valid_ok_empty : Response.Valid ⟨okCode, 0, 0⟩ := valid_ok (k := 0) (by decide) (by decide)

/-- Every error but the host's `UnknownAlgorithm` has a code of the block. -/
theorem valid_error {e : ErrorKind} (he : e ≠ .unknownAlgorithm) : Response.Valid ⟨errorCode e, 0, 0⟩ := by
  cases e with
  | unknownAlgorithm => exact absurd rfl he
  | _ => decide

/-- A value within a width is answered with as many items as the width has bytes. -/
theorem valid_value (w : Width) {v : Word} (hv : v.toNat < 2 ^ w.bits) :
    Response.Valid ⟨okCode, BitVec.ofNat 4 w.bytes, zext64 v⟩ := by
  have hdata : (zext64 v).toNat = v.toNat := BitVec.toNat_setWidth_of_le (by decide)
  refine valid_ok (by cases w <;> decide) ?_
  rwa [hdata, ← w.bits_eq_bytes]

/-- The reflection of a value lies within the width (R70). -/
theorem reflect_lt (v : Word) (w : Width) : (reflect v w).toNat < 2 ^ w.bits := by
  refine Nat.lt_pow_two_of_testBit _ fun j hj => ?_
  rw [BitVec.testBit_toNat, reflect, reflectBelow_getLsbD v w.bits w.bits w.bits_le le_rfl]
  simp [Nat.not_lt.mpr hj]

theorem formatHex_length (v : Word) (w : Width) (le : Bool) : (formatHex v w le).length = 2 * w.bytes := by
  have hbytes : (displayBytes v w le).length = w.bytes := by cases le <;> simp [displayBytes]
  simp [formatHex, byteText, List.length_flatMap, hbytes, Nat.mul_comm]

/-- Packed items take eight bits each (R39). -/
theorem pack_lt (cs : List Byte) : (pack cs).toNat < 2 ^ (8 * cs.length) :=
  Nat.lt_pow_two_of_testBit _ (pack_getLsbD_of_ge cs)

/-- The text of a value is answered with two characters for each byte (R114). -/
theorem valid_text (v : Word) (w : Width) (le : Bool) :
    Response.Valid ⟨okCode, BitVec.ofNat 4 (2 * w.bytes), pack (formatHex v w le)⟩ := by
  have hdata := pack_lt (formatHex v w le)
  rw [formatHex_length] at hdata
  exact valid_ok (by cases w <;> decide) hdata

/-- The byte of two nibbles is answered as one item (R101). -/
theorem valid_byte (b : Byte) : Response.Valid ⟨okCode, 1, b.setWidth 64⟩ := by
  have hdata : (b.setWidth 64).toNat = b.toNat := BitVec.toNat_setWidth_of_le (by decide)
  exact valid_ok (k := 1) (by decide) (hdata ▸ b.isLt)

/-- The checksum of an open computation lies within the active width: the invariant bounds both values `FINAL` combines. -/
theorem checksum_lt {s : State} (hinv : s.Inv) (hrun : s.run = true) : (s.reg ^^^ s.xorOut).toNat < 2 ^ s.w.bits := by
  obtain ⟨hspec, hopen⟩ := hinv
  obtain ⟨hloaded, hreg⟩ := hopen hrun
  obtain ⟨_, _, hxor, _, _⟩ := hspec hloaded
  rw [BitVec.toNat_xor]
  exact Nat.xor_lt_two_pow hreg hxor

/-! ## What every command appends -/

/-- The state `t` has exactly one response more than `s`, and it is valid. -/
def AnsweredOnce (s t : State) : Prop := ∃ r : Response, t.responses = s.responses ++ [r] ∧ r.Valid

/-- A response driven after updates that keep the responses is the one that is appended. -/
theorem answeredOnce_respond {s u : State} {st : BitVec 8} {n : BitVec 4} {data : RspData}
    (hu : u.responses = s.responses) (hr : Response.Valid ⟨st, n, data⟩) : AnsweredOnce s (respond st n data u) :=
  ⟨_, by rw [respond_responses, hu], hr⟩

theorem answeredOnce_ok {s u : State} (hu : u.responses = s.responses) : AnsweredOnce s (respond okCode 0 0 u) :=
  answeredOnce_respond hu valid_ok_empty

theorem answeredOnce_error {s u : State} {e : ErrorKind} (he : e ≠ .unknownAlgorithm)
    (hu : u.responses = s.responses) : AnsweredOnce s (respond (errorCode e) 0 0 u) :=
  answeredOnce_respond hu (valid_error he)

/-- Every command appends exactly one response, and it is valid. -/
theorem exec_answersOnce {i : Instr} {s t : State} (hinv : s.Inv) (h : exec i s = .next t) : AnsweredOnce s t := by
  cases i with
  | rowctl _ _ _ | rowpoly _ | rowinit _ | rowxor _ =>
    cases h
    exact answeredOnce_ok rfl
  | ldspec =>
    obtain ⟨_, rfl⟩ | ⟨_, _, rfl⟩ | ⟨_, _, _, _, rfl⟩ | ⟨_, _, _, _, rfl⟩ := execLdspec_cases h
    · exact answeredOnce_error nofun rfl
    · exact answeredOnce_error nofun rfl
    · exact answeredOnce_error nofun rfl
    · exact answeredOnce_ok rfl
  | start =>
    obtain ⟨_, rfl⟩ | ⟨_, rfl⟩ := execStart_cases h
    · exact answeredOnce_ok rfl
    · exact answeredOnce_error nofun rfl
  | byte b =>
    obtain ⟨_, rfl⟩ | ⟨_, rfl⟩ := execByte_cases h
    · exact answeredOnce_ok rfl
    · exact answeredOnce_error nofun rfl
  | final =>
    obtain ⟨hrun, rfl⟩ | ⟨_, rfl⟩ := execFinal_cases h
    · exact answeredOnce_respond rfl (valid_value s.w (checksum_lt hinv hrun))
    · exact answeredOnce_error nofun rfl
  | refl8 v =>
    cases h
    exact answeredOnce_respond rfl (valid_value .w8 (reflect_lt _ _))
  | refl16 v =>
    cases h
    exact answeredOnce_respond rfl (valid_value .w16 (reflect_lt _ _))
  | refl32 v =>
    cases h
    exact answeredOnce_respond rfl (valid_value .w32 (reflect_lt _ _))
  | hexch c =>
    obtain ⟨_, rfl⟩ | ⟨_, _, rfl⟩ | ⟨_, _, _, rfl⟩ | ⟨_, _, _, _, _, rfl⟩ | ⟨_, _, _, _, _, rfl⟩ := execHexch_cases h
    · exact answeredOnce_error nofun rfl
    · exact answeredOnce_ok rfl
    · exact answeredOnce_error nofun rfl
    · exact answeredOnce_respond rfl (valid_byte _)
    · exact answeredOnce_ok rfl
  | hexend =>
    obtain ⟨_, rfl⟩ | ⟨_, _, rfl⟩ := execHexend_cases h
    · exact answeredOnce_error nofun rfl
    · exact answeredOnce_ok rfl
  | fmt1be v | fmt1le v | fmt2be v | fmt2le v | fmt4be v | fmt4le v =>
    cases h
    exact answeredOnce_respond rfl (valid_text _ _ _)

/-- Every word, legal or not, is answered exactly once, with the inputs to come untouched. -/
theorem runWord_answersOnce (w : CmdWord) {s : State} (hinv : s.Inv) :
    ∃ t, runWord w s = .next t ∧ t.port = s.port ∧ AnsweredOnce s t := by
  obtain ⟨i, _, hrun⟩ | ⟨_, _, hrun⟩ := runWord_cases w s
  · obtain ⟨t, ht⟩ := exec_total i s
    exact ⟨t, hrun.trans ht, (exec_keeps_port ht).1, exec_answersOnce hinv ht⟩
  · exact ⟨_, hrun, rfl, answeredOnce_error nofun rfl⟩

/-- A command word waiting at the port of a block out of reset is taken and run. -/
theorem step_command {s : State} {w : CmdWord} {rest : List PortEvent} (hport : s.port = .command w :: rest)
    (hreset : s.inReset = false) : step s = runWord w (s.takeEvent rest) := by
  simp only [step, hport, runEvent, takeEvent_inReset, hreset]

/-- R41: the three fields of a response stand in its word at bits 75 to 68, 67 to 64 and 63 to 0. -/
theorem response_word_fields (r : Response) :
    r.word.extractLsb' 68 8 = r.st ∧ r.word.extractLsb' 64 4 = r.n ∧ r.word.extractLsb' 0 64 = r.data := by
  refine ⟨BitVec.extractLsb'_append_eq_left, ?_, ?_⟩
  · calc r.word.extractLsb' 64 4
        = (r.n ++ r.data).extractLsb' 64 4 := BitVec.extractLsb'_append_eq_of_add_le (by decide)
      _ = r.n := BitVec.extractLsb'_append_eq_left
  · calc r.word.extractLsb' 0 64
        = (r.n ++ r.data).extractLsb' 0 64 := BitVec.extractLsb'_append_eq_of_add_le (by decide)
      _ = r.data := BitVec.extractLsb'_append_eq_right

/-- Settles O14: the step runs the word after taking it off the port, and every word is answered exactly once. -/
theorem everyCommandIsAnswered : Obligations.EveryCommandIsAnswered := by
  refine ⟨fun s w rest hinv hport hreset => ?_, response_word_fields⟩
  have hinv' : (s.takeEvent rest).Inv := hinv
  obtain ⟨t, ht, hrest, r, hresp, hvalid⟩ := runWord_answersOnce w hinv'
  exact ⟨t, r, (step_command hport hreset).trans ht, hrest, hresp, hvalid⟩

end Sys2Proof.Machine
end

section
/-! PROOF. Loading the algorithm parameters (spec 40_spec_load.md R60 to R66): what a staging command writes, and the
equation of `LDSPEC` for each outcome of its checks. -/

namespace Sys2Proof

/-- The widths as numbers (R60). -/
theorem Width.exists_bits_eq_iff {n : Nat} : (∃ w : Width, n = w.bits) ↔ n = 8 ∨ n = 16 ∨ n = 32 := by
  constructor
  · rintro ⟨w, rfl⟩
    cases w <;> decide
  · rintro (rfl | rfl | rfl)
    · exact ⟨.w8, rfl⟩
    · exact ⟨.w16, rfl⟩
    · exact ⟨.w32, rfl⟩

theorem decode_of_fits {m : Mnemonic} {arg : Word} (h : arg.toNat < 2 ^ m.usedBits) :
    decode (opcodeOf m ++ arg) = .ok (build m arg) :=
  (decode_operand m arg).trans (if_pos h)

theorem decode_of_not_fits {m : Mnemonic} {arg : Word} (h : ¬ arg.toNat < 2 ^ m.usedBits) :
    decode (opcodeOf m ++ arg) = .error .reservedArgBits :=
  (decode_operand m arg).trans (if_neg h)

/-- The reserved bits of `ROWCTL` are those above its ten operand bits (R44). -/
theorem rowctl_reserved_eq_zero_iff (arg : Word) :
    arg.extractLsb' 10 22 = 0 ↔ arg.toNat < 2 ^ Mnemonic.rowctl.usedBits := by
  have harg := arg.isLt
  have hbits : (arg.extractLsb' 10 22).toNat = arg.toNat / 2 ^ 10 % 2 ^ 22 := by
    rw [BitVec.extractLsb'_toNat, Nat.shiftRight_eq_div_pow]
  rw [← BitVec.toNat_inj, hbits]
  simp only [Mnemonic.usedBits, BitVec.ofNat_eq_ofNat, BitVec.toNat_ofNat]
  omega

/-- The three operands taken from `arg` are its ten low bits put together again (R44, R62). -/
theorem ctlBits_fields (arg : Word) :
    ctlBits (arg.extractLsb' 0 8) (arg.getLsbD 8) (arg.getLsbD 9) = arg.extractLsb' 0 10 := by
  refine BitVec.eq_of_getLsbD_eq fun i hi => ?_
  rw [ctlBits_getLsbD, BitVec.getLsbD_extractLsb', BitVec.getLsbD_extractLsb']
  obtain h | rfl | rfl : i < 8 ∨ i = 8 ∨ i = 9 := by omega
  · simp [h, hi]
  · simp
  · simp

theorem ctlBits_width (width : Byte) (refIn refOut : Bool) : (ctlBits width refIn refOut).extractLsb' 0 8 = width := by
  refine BitVec.eq_of_getLsbD_eq fun i hi => ?_
  rw [BitVec.getLsbD_extractLsb', ctlBits_getLsbD]
  simp [hi]

theorem ctlBits_refIn (width : Byte) (refIn refOut : Bool) : (ctlBits width refIn refOut).getLsbD 8 = refIn :=
  ctlBits_getLsbD width refIn refOut 8

theorem ctlBits_refOut (width : Byte) (refIn refOut : Bool) : (ctlBits width refIn refOut).getLsbD 9 = refOut :=
  ctlBits_getLsbD width refIn refOut 9

end Sys2Proof

namespace Sys2Proof.Machine

open Sys2Proof

/-! ## The staging commands (40_spec_load.md R62 to R65) -/

/-- `ROWCTL` as its ten operand bits (R62). -/
theorem exec_rowctl (width : Byte) (refIn refOut : Bool) (s : State) :
    exec (.rowctl width refIn refOut) s =
      .next { s with rowCtrl := ctlBits width refIn refOut, responses := s.responses ++ [⟨0, 0, 0⟩] } :=
  answer_eq 0 0 _

/-- `ROWCTL` as the `arg` of its word (R62). -/
theorem exec_build_rowctl (arg : Word) (s : State) :
    exec (build .rowctl arg) s =
      .next { s with rowCtrl := arg.extractLsb' 0 10, responses := s.responses ++ [⟨0, 0, 0⟩] } := by
  rw [← ctlBits_fields]
  exact exec_rowctl _ _ _ s

/-- Settles O17: a `ROWCTL` word is judged by its reserved bits, and the other three use every bit of `arg`. -/
theorem stagingCommandsWriteTheirRegister : Obligations.StagingCommandsWriteTheirRegister := by
  refine ⟨fun s arg hres => ?_, fun s arg hres => ?_, fun s width refIn refOut => ?_, fun s p => ⟨?_, answer_eq 0 0 _⟩,
    fun s v => ⟨?_, answer_eq 0 0 _⟩, fun s x => ⟨?_, answer_eq 0 0 _⟩⟩
  · have hdec := decode_of_fits ((rowctl_reserved_eq_zero_iff arg).mp hres)
    exact (runWord_of_decode_ok hdec s).trans (exec_build_rowctl arg s)
  · exact runWord_of_decode_error (decode_of_not_fits (mt (rowctl_reserved_eq_zero_iff arg).mpr hres)) s
  · exact ⟨_, exec_rowctl width refIn refOut s, ctlBits_width _ _ _, ctlBits_refIn _ _ _, ctlBits_refOut _ _ _⟩
  · exact decode_of_fits (m := .rowpoly) p.isLt
  · exact decode_of_fits (m := .rowinit) v.isLt
  · exact decode_of_fits (m := .rowxor) x.isLt

/-! ## `LDSPEC` (40_spec_load.md R60, R61, R66) -/

/-- `WellFormed` (R60) as a condition on the four numbers alone. -/
theorem exists_wellFormedWidth_iff {width poly init xorOut : Nat} :
    (∃ w, wellFormedWidth width poly init xorOut = some w) ↔
      (width = 8 ∨ width = 16 ∨ width = 32) ∧ poly < 2 ^ width ∧ init < 2 ^ width ∧ xorOut < 2 ^ width := by
  simp only [wellFormedWidth_eq_some, ← Width.exists_bits_eq_iff]
  constructor
  · rintro ⟨w, rfl, hvalues⟩
    exact ⟨⟨w, rfl⟩, hvalues⟩
  · rintro ⟨⟨w, rfl⟩, hvalues⟩
    exact ⟨w, rfl, hvalues⟩

theorem wellFormedWidth_eq_none_iff {width poly init xorOut : Nat} :
    wellFormedWidth width poly init xorOut = none ↔
      ¬ ((width = 8 ∨ width = 16 ∨ width = 32) ∧ poly < 2 ^ width ∧ init < 2 ^ width ∧ xorOut < 2 ^ width) := by
  rw [← exists_wellFormedWidth_iff, ← Option.isSome_iff_exists, Option.not_isSome_iff_eq_none]

/-- The check of the staged row's numbers, which `LDSPEC` makes after its gate. -/
def stagedWidth (s : State) : Option Width :=
  wellFormedWidth (rowWidth s.rowCtrl) s.rowPoly.toNat s.rowInit.toNat s.rowXor.toNat

/-- The gate of `LDSPEC` comes first (R66). -/
theorem execLdspec_of_run {s : State} (hrun : s.run = true) : execLdspec s = raise .sequenceError s := by
  simp only [execLdspec, whenIdle, hrun]

/-- Then the staged numbers are checked (R60, R66). -/
theorem execLdspec_of_illFormed {s : State} (hidle : s.run = false) (hrow : stagedWidth s = none) :
    execLdspec s = raise .invalidSpec s := by
  rw [stagedWidth] at hrow
  simp only [execLdspec, whenIdle, hidle, hrow]

/-- Then the two flags are compared (R61, R66). -/
theorem execLdspec_of_wellFormed {s : State} {w : Width} (hidle : s.run = false) (hrow : stagedWidth s = some w) :
    execLdspec s =
      if rowRefIn s.rowCtrl = rowRefOut s.rowCtrl then answer 0 0 (commitRow w s) else raise .unsupportedSpec s := by
  rw [stagedWidth] at hrow
  simp only [execLdspec, whenIdle, hidle, hrow, supported, beq_iff_eq]

/-- Settles O18: an operandless command allows no `arg` bit, and the three conditions of the statement are the three
checks of `execLdspec`. -/
theorem ldspecValidatesThenLoads : Obligations.LdspecValidatesThenLoads := by
  refine ⟨fun arg harg => decode_of_not_fits (m := .ldspec) fun hfits => harg ?_, rfl,
    fun s => ⟨fun hrun => ?_, fun hidle hill => ?_, fun hidle hfits hflags => ?_, fun hidle hfits hflags => ?_⟩⟩
  · exact BitVec.eq_of_toNat_eq (Nat.lt_one_iff.mp hfits)
  · exact (execLdspec_of_run hrun).trans (raise_eq _ s)
  · exact (execLdspec_of_illFormed hidle (wellFormedWidth_eq_none_iff.mpr hill)).trans (raise_eq _ s)
  · obtain ⟨w, hw⟩ := exists_wellFormedWidth_iff.mpr hfits
    exact (execLdspec_of_wellFormed hidle hw).trans ((if_neg hflags).trans (raise_eq _ s))
  · obtain ⟨w, hw⟩ := exists_wellFormedWidth_iff.mpr hfits
    obtain ⟨hwidth, _⟩ := wellFormedWidth_eq_some.mp hw
    exact ⟨w, hwidth.symm, (execLdspec_of_wellFormed hidle hw).trans ((if_pos hflags).trans (answer_eq 0 0 _))⟩

end Sys2Proof.Machine
end

section
/-! PROOF. The commands of the Bit Reflector (spec 41_reflector.md R70, R72 to R74): the reflected value bit by bit, as
the data of a response. -/

namespace Sys2Proof.Machine

open Sys2Proof

/-- Bit `i` of a value within the width moves to the mirrored place (R70). -/
theorem reflect_getLsbD (v : Word) (w : Width) {i : Nat} (hi : i < w.bits) :
    (reflect v w).getLsbD (w.bits - 1 - i) = v.getLsbD i := by
  have hmirror : w.bits - 1 - (w.bits - 1 - i) = i := by omega
  have hplace : w.bits - 1 - i < w.bits := by omega
  rw [reflect, reflectBelow_getLsbD v w.bits w.bits w.bits_le le_rfl, hmirror]
  simp [hi, hplace]

theorem zext64_toNat (v : Word) : (zext64 v).toNat = v.toNat := BitVec.toNat_setWidth_of_le (by decide)

@[simp] theorem zext64_getLsbD (v : Word) (i : Nat) : (zext64 v).getLsbD i = v.getLsbD i := by
  rw [← BitVec.testBit_toNat, zext64_toNat, BitVec.testBit_toNat]

/-- The data of a reflection has zeros above the width. -/
theorem zext64_reflect_lt (v : Word) (w : Width) : (zext64 (reflect v w)).toNat < 2 ^ w.bits :=
  (zext64_toNat _).trans_lt (reflect_lt v w)

/-- An operand of any size, presented as a word and reflected within the width, is mirrored bit by bit in the data. -/
theorem zext64_reflect_operand_getLsbD {n : Nat} (v : BitVec n) (w : Width) {i : Nat} (hi : i < w.bits) :
    (zext64 (reflect (v.setWidth 32) w)).getLsbD (w.bits - 1 - i) = v.getLsbD i := by
  have hword : i < 32 := hi.trans_le w.bits_le
  rw [zext64_getLsbD, reflect_getLsbD _ w hi, BitVec.getLsbD_setWidth]
  simp [hword]

/-- R74 in the form of R72 and R73: the operand of `REFL32` is a word as it stands. -/
theorem exec_refl32 (v : BitVec 32) (s : State) :
    exec (.refl32 v) s = answer 4 (zext64 (reflect (v.setWidth 32) .w32)) s := by
  rw [BitVec.setWidth_eq]
  rfl

/-- Settles O22: each command is `answer` of the reflection within its width, and each word is judged by the used bits
of its mnemonic, which for `REFL32` are all of `arg`. -/
theorem reflCommandsAnswerTheReflection : Obligations.ReflCommandsAnswerTheReflection := by
  refine ⟨fun s v => ?_, fun s v => ?_, fun s v => ?_, fun arg => ⟨?_, ?_, ?_⟩⟩
  · exact ⟨_, answer_eq 1 _ s, zext64_reflect_lt _ .w8, fun i => zext64_reflect_operand_getLsbD v .w8⟩
  · exact ⟨_, answer_eq 2 _ s, zext64_reflect_lt _ .w16, fun i => zext64_reflect_operand_getLsbD v .w16⟩
  · exact ⟨_, exec_refl32 v s, zext64_reflect_lt _ .w32, fun i => zext64_reflect_operand_getLsbD v .w32⟩
  · exact decode_operand .refl8 arg
  · exact decode_operand .refl16 arg
  · exact decode_of_fits (m := .refl32) arg.isLt

end Sys2Proof.Machine
end

section
/-! PROOF. The engine (spec 42_engine.md R81 to R91): the one-bit steps as arithmetic, the equations of `START`, `BYTE`
and `FINAL`, and the register of an open computation as a function of the loaded spec and the bytes absorbed. -/

namespace Sys2Proof

/-- A command without operand allows no `arg` bit (R43, R47). -/
theorem decode_of_no_operand {m : Mnemonic} {arg : Word} (hm : m.usedBits = 0) (harg : arg ≠ 0) :
    decode (opcodeOf m ++ arg) = .error .reservedArgBits :=
  decode_of_not_fits fun hfits => harg (BitVec.eq_of_toNat_eq (Nat.lt_one_iff.mp (by simpa [hm] using hfits)))

/-- The command built from the operand of a command is that command (R42, R43). -/
theorem build_argOf (i : Instr) : build i.mnemonic (argOf i) = i := by
  cases i with
  | rowctl width refIn refOut =>
    simp only [Instr.mnemonic, argOf, build, BitVec.extractLsb'_setWidth_of_le, BitVec.getLsbD_setWidth, ctlBits_width,
      ctlBits_refIn, ctlBits_refOut, Nat.reduceAdd, Nat.reduceLeDiff, Nat.reduceLT, decide_true, Bool.true_and]
  | byte v | refl8 v | refl16 v | hexch v | fmt1be v | fmt1le v | fmt2be v | fmt2le v =>
    simp [Instr.mnemonic, argOf, build, BitVec.extractLsb'_setWidth_of_le]
  | _ => rfl

/-- The word of a command decodes to that command (R40 to R48). -/
theorem decode_encode (i : Instr) : decode (encode i) = .ok i :=
  (decode_of_fits (argOf_lt i)).trans (congrArg Except.ok (build_argOf i))

end Sys2Proof

namespace Sys2Proof.Machine

open Sys2Proof

/-! ## One shift step (42_engine.md R81, R82) -/

theorem mask_toNat (w : Width) : (mask w).toNat = 2 ^ w.bits - 1 := by cases w <;> rfl

/-- Doubling a word and keeping the bits of the width. -/
theorem shiftLeft_and_mask_toNat (w : Width) (r : Word) : (r <<< 1 &&& mask w).toNat = 2 * r.toNat % 2 ^ w.bits := by
  rw [BitVec.toNat_and, mask_toNat, Nat.and_two_pow_sub_one_eq_mod, BitVec.toNat_shiftLeft,
    Nat.mod_mod_of_dvd _ (Nat.pow_dvd_pow 2 w.bits_le), Nat.shiftLeft_eq, pow_one, Nat.mul_comm]

/-- The top bit of a value within the width, as a comparison. -/
theorem topBit_iff {w : Width} {r : Word} (hr : r.toNat < 2 ^ w.bits) :
    r.getLsbD (w.bits - 1) = true ↔ 2 ^ (w.bits - 1) ≤ r.toNat := by
  have hbits : w.bits - 1 + 1 = w.bits := Nat.sub_add_cancel (w.eight_le_bits.trans' (by decide))
  rw [← BitVec.testBit_toNat]
  refine ⟨Nat.ge_two_pow_of_testBit, fun htop => ?_⟩
  exact Nat.testBit_of_two_pow_le_and_two_pow_add_one_gt htop (hbits.symm ▸ hr)

theorem bottomBit_iff (r : Word) : r.getLsbD 0 = true ↔ r.toNat % 2 = 1 := by
  rw [← BitVec.testBit_toNat, Nat.testBit_zero, decide_eq_true_iff]

/-- R81 as one exclusive-or: the polynomial enters when the top bit is set. -/
theorem stepMSB_eq_xor (poly : Word) (w : Width) (r : Word) :
    stepMSB poly w r = (r <<< 1 &&& mask w) ^^^ (if r.getLsbD (w.bits - 1) then poly else 0) := by
  unfold stepMSB
  split <;> simp

/-- R82 as one exclusive-or: the polynomial enters when the bottom bit is set. -/
theorem stepLSB_eq_xor (rpoly r : Word) : stepLSB rpoly r = (r >>> 1) ^^^ (if r.getLsbD 0 then rpoly else 0) := by
  unfold stepLSB
  split <;> simp

/-- A polynomial that enters a step or not stays within the width either way. -/
theorem ite_toNat_lt {w : Width} {poly : Word} (hp : poly.toNat < 2 ^ w.bits) (p : Prop) [Decidable p] :
    (if p then poly.toNat else 0) < 2 ^ w.bits := by
  split
  · exact hp
  · exact Nat.two_pow_pos _

theorem stepMSB_toNat {w : Width} {poly r : Word} (hr : r.toNat < 2 ^ w.bits) :
    (stepMSB poly w r).toNat =
      ((2 * r.toNat) % 2 ^ w.bits) ^^^ (if 2 ^ (w.bits - 1) ≤ r.toNat then poly.toNat else 0) := by
  simp only [stepMSB_eq_xor, BitVec.toNat_xor, shiftLeft_and_mask_toNat, topBit_iff hr, apply_ite BitVec.toNat]
  rfl

theorem stepLSB_toNat (rpoly r : Word) :
    (stepLSB rpoly r).toNat = (r.toNat / 2) ^^^ (if r.toNat % 2 = 1 then rpoly.toNat else 0) := by
  simp only [stepLSB_eq_xor, BitVec.toNat_xor, BitVec.toNat_ushiftRight, Nat.shiftRight_eq_div_pow, pow_one,
    bottomBit_iff, apply_ite BitVec.toNat]
  rfl

/-- The result of a step stays within the width (R81). -/
theorem stepMSB_lt {w : Width} {poly r : Word} (hr : r.toNat < 2 ^ w.bits) (hp : poly.toNat < 2 ^ w.bits) :
    (stepMSB poly w r).toNat < 2 ^ w.bits := by
  rw [stepMSB_toNat hr]
  exact Nat.xor_lt_two_pow (Nat.mod_lt _ (Nat.two_pow_pos _)) (ite_toNat_lt hp _)

/-- The result of a step stays within the width (R82). -/
theorem stepLSB_lt {w : Width} {rpoly r : Word} (hr : r.toNat < 2 ^ w.bits) (hp : rpoly.toNat < 2 ^ w.bits) :
    (stepLSB rpoly r).toNat < 2 ^ w.bits := by
  rw [stepLSB_toNat]
  exact Nat.xor_lt_two_pow ((Nat.div_le_self _ _).trans_lt hr) (ite_toNat_lt hp _)

/-- Settles O23: the masked shift is doubling modulo `2^W`, and the tested bit is the comparison with `2^(W-1)`. -/
theorem stepMsbShiftsAndDivides : Obligations.StepMsbShiftsAndDivides :=
  fun _ _ _ hr hp => ⟨stepMSB_toNat hr, stepMSB_lt hr hp⟩

/-- Settles O24: the logical shift is halving, and the tested bit is the remainder. -/
theorem stepLsbShiftsAndDivides : Obligations.StepLsbShiftsAndDivides :=
  fun _ rpoly r hr hp => ⟨stepLSB_toNat rpoly r, stepLSB_lt hr hp⟩

/-! ## The three commands (42_engine.md R85 to R87) -/

theorem whenLoaded_of_loaded {s : State} (hspec : s.specv = true) (k : Host.Outcome State Fault Refusal) :
    whenLoaded s k = k := by
  simp only [whenLoaded, hspec]

theorem whenLoaded_of_unloaded {s : State} (hspec : s.specv = false) (k : Host.Outcome State Fault Refusal) :
    whenLoaded s k = raise .sequenceError s := by
  simp only [whenLoaded, hspec]

theorem whenRunning_of_running {s : State} (hrun : s.run = true) (k : Host.Outcome State Fault Refusal) :
    whenRunning s k = k := by
  simp only [whenRunning, hrun]

theorem whenRunning_of_idle {s : State} (hrun : s.run = false) (k : Host.Outcome State Fault Refusal) :
    whenRunning s k = raise .sequenceError s := by
  simp only [whenRunning, hrun]

theorem exec_start_of_loaded {s : State} (hspec : s.specv = true) :
    exec .start s = .next { s with reg := s.init, run := true, responses := s.responses ++ [⟨0, 0, 0⟩] } :=
  (whenLoaded_of_loaded hspec _).trans (answer_eq 0 0 _)

theorem exec_start_of_unloaded {s : State} (hspec : s.specv = false) :
    exec .start s = .next { s with responses := s.responses ++ [⟨5, 0, 0⟩] } :=
  (whenLoaded_of_unloaded hspec _).trans (raise_eq _ s)

theorem exec_byte_of_running {s : State} (hrun : s.run = true) (b : Byte) :
    exec (.byte b) s = .next
      { s with
        reg := absorb s.w s.poly s.rpoly s.refIn s.reg b
        responses := s.responses ++ [⟨0, 0, 0⟩] } :=
  (whenRunning_of_running hrun _).trans (answer_eq 0 0 _)

theorem exec_byte_of_idle {s : State} (hrun : s.run = false) (b : Byte) :
    exec (.byte b) s = .next { s with responses := s.responses ++ [⟨5, 0, 0⟩] } :=
  (whenRunning_of_idle hrun _).trans (raise_eq _ s)

theorem exec_final_of_running {s : State} (hrun : s.run = true) :
    exec .final s = .next
      { s with
        run := false
        responses := s.responses ++ [⟨0, BitVec.ofNat 4 s.w.bytes, zext64 (s.reg ^^^ s.xorOut)⟩] } :=
  (whenRunning_of_running hrun _).trans (answer_eq _ _ _)

theorem exec_final_of_idle {s : State} (hrun : s.run = false) :
    exec .final s = .next { s with responses := s.responses ++ [⟨5, 0, 0⟩] } :=
  (whenRunning_of_idle hrun _).trans (raise_eq _ s)

theorem absorb_of_nonreflected {refIn : Bool} (hmode : refIn = false) (w : Width) (poly rpoly r : Word) (b : Byte) :
    absorb w poly rpoly refIn r b = absorbMSB r b poly w := by
  subst hmode
  rfl

theorem absorb_of_reflected {refIn : Bool} (hmode : refIn = true) (w : Width) (poly rpoly r : Word) (b : Byte) :
    absorb w poly rpoly refIn r b = absorbLSB r b rpoly := by
  subst hmode
  rfl

/-- Settles O25: `START` has no operand, and its gate reads `SPECV` alone, so an open computation is no obstacle. -/
theorem startOpensAComputation : Obligations.StartOpensAComputation :=
  ⟨fun _ harg => decode_of_no_operand (m := .start) rfl harg, rfl,
    fun _ => ⟨exec_start_of_loaded, exec_start_of_unloaded⟩⟩

/-- Settles O26: `absorb` in the mode of `REFIN` is the exclusive-or followed by `shiftSteps` with the count 8. -/
theorem byteShiftsEightTimes : Obligations.ByteShiftsEightTimes := by
  refine ⟨fun arg => decode_operand .byte arg, fun s b => ⟨fun hrun hmode => ?_, fun hrun hmode => ?_,
    fun hrun => exec_byte_of_idle hrun b⟩⟩
  · rw [exec_byte_of_running hrun, absorb_of_nonreflected hmode]
    rfl
  · rw [exec_byte_of_running hrun, absorb_of_reflected hmode]
    rfl

/-- The item count of `FINAL` is the width in bytes (R87). -/
theorem bytes_count (w : Width) : 8 * (BitVec.ofNat 4 w.bytes).toNat = w.bits := by cases w <;> rfl

/-- Settles O27: the answer is the one of `exec_final_of_running`, read as numbers. -/
theorem finalAnswersTheChecksum : Obligations.FinalAnswersTheChecksum :=
  ⟨fun _ harg => decode_of_no_operand (m := .final) rfl harg, rfl,
    fun s => ⟨fun hrun => ⟨_, _, exec_final_of_running hrun, bytes_count s.w,
      (zext64_toNat _).trans (BitVec.toNat_xor ..)⟩, exec_final_of_idle⟩⟩

/-! ## Commands sent one after the other -/

theorem sendAll_cons_of_exec {i : Instr} {s t : State} (h : exec i s = .next t) (is : List Instr) :
    sendAll (i :: is) s = sendAll is t := by
  rw [sendAll_cons, runWord_of_decode_ok (decode_encode i), h, andThen_next]

/-- Settles O35: absorbing nothing leaves `INIT`, and `FINAL` finds the register as `START` has loaded it. -/
theorem emptyMessageAnswersInitXorOut : Obligations.EmptyMessageAnswersInitXorOut := by
  refine ⟨fun sp => rfl, fun s hspec => ?_⟩
  rw [sendAll_cons_of_exec (exec_start_of_loaded hspec), sendAll_cons_of_exec (exec_final_of_running rfl)]
  exact ⟨_, rfl, List.append_assoc ..⟩

/-! ## An open computation (42_engine.md R91) -/

/-- A computation with the spec `sp` is open, and the register has absorbed `data` since its `START`. -/
structure Computing (sp : Spec) (data : List Byte) (s : State) : Prop where
  run : s.run = true
  spec : s.activeSpec = sp
  rpoly : s.rpoly = reflect sp.poly sp.w
  reg : s.reg = absorbAll sp sp.init data

/-- From `s` to `t` one response is added, and the engine and its active spec stay the same. -/
structure EngineKept (s t : State) : Prop where
  run : t.run = s.run
  spec : t.activeSpec = s.activeSpec
  rpoly : t.rpoly = s.rpoly
  reg : t.reg = s.reg
  answered : ∃ r, t.responses = s.responses ++ [r]

/-- While a computation is open, no command of another unit reaches the engine: `LDSPEC` is refused (R15, R37). -/
theorem exec_keeps_engine {i : Instr} {s t : State} (hi : i.isEngine = false) (hrun : s.run = true)
    (h : exec i s = .next t) : EngineKept s t := by
  cases i with
  | start | byte _ | final => cases hi
  | ldspec =>
    cases (execLdspec_of_run hrun).symm.trans h
    exact ⟨rfl, rfl, rfl, rfl, _, rfl⟩
  | hexch c =>
    obtain ⟨_, rfl⟩ | ⟨_, _, rfl⟩ | ⟨_, _, _, rfl⟩ | ⟨_, _, _, _, _, rfl⟩ | ⟨_, _, _, _, _, rfl⟩ :=
      execHexch_cases h <;> exact ⟨rfl, rfl, rfl, rfl, _, rfl⟩
  | hexend => obtain ⟨_, rfl⟩ | ⟨_, _, rfl⟩ := execHexend_cases h <;> exact ⟨rfl, rfl, rfl, rfl, _, rfl⟩
  | _ =>
    cases h
    exact ⟨rfl, rfl, rfl, rfl, _, rfl⟩

theorem Computing.of_engineKept {sp : Spec} {data : List Byte} {s t : State} (hs : Computing sp data s)
    (ht : EngineKept s t) : Computing sp data t :=
  ⟨ht.run.trans hs.run, ht.spec.trans hs.spec, ht.rpoly.trans hs.rpoly, ht.reg.trans hs.reg⟩

/-- `START` opens a computation that has absorbed nothing. -/
theorem computing_of_start {s t : State} (hinv : s.Inv) (hspec : s.specv = true) (h : exec .start s = .next t) :
    Computing s.activeSpec [] t := by
  obtain ⟨hfits, _⟩ := hinv
  obtain ⟨_, _, _, _, hrpoly⟩ := hfits hspec
  cases (exec_start_of_loaded hspec).symm.trans h
  exact ⟨rfl, rfl, hrpoly, rfl⟩

theorem absorbAll_append_one (sp : Spec) (r : Word) (data : List Byte) (b : Byte) :
    absorbAll sp r (data ++ [b]) =
      absorb sp.w sp.poly (reflect sp.poly sp.w) sp.refIn (absorbAll sp r data) b := by
  simp only [absorbAll, List.foldl_append, List.foldl_cons, List.foldl_nil]

/-- `BYTE` in an open computation absorbs its byte. -/
theorem Computing.exec_byte {sp : Spec} {data : List Byte} {s t : State} {b : Byte} (hs : Computing sp data s)
    (h : exec (.byte b) s = .next t) : Computing sp (data ++ [b]) t := by
  obtain ⟨hrun, rfl, hrpoly, hreg⟩ := hs
  cases (exec_byte_of_running hrun b).symm.trans h
  refine ⟨hrun, rfl, hrpoly, ?_⟩
  rw [absorbAll_append_one, ← hreg, ← hrpoly]
  rfl

theorem bytesOf_cons (i : Instr) (is : List Instr) : bytesOf (i :: is) = bytesOf [i] ++ bytesOf is := by
  cases i <;> rfl

theorem bytesOf_of_not_isEngine {i : Instr} (hi : i.isEngine = false) : bytesOf [i] = [] := by
  cases i with
  | byte b => cases hi
  | _ => rfl

/-- Any command but `START` and `FINAL` adds its message byte, if it has one, and is answered once. -/
theorem Computing.exec_command {sp : Spec} {data : List Byte} {i : Instr} {s t : State} (hs : Computing sp data s)
    (hi : i ≠ .start ∧ i ≠ .final) (h : exec i s = .next t) :
    Computing sp (data ++ bytesOf [i]) t ∧ ∃ r, t.responses = s.responses ++ [r] := by
  by_cases hengine : i.isEngine = false
  · have hkept := exec_keeps_engine hengine hs.run h
    rw [bytesOf_of_not_isEngine hengine, List.append_nil]
    exact ⟨hs.of_engineKept hkept, hkept.answered⟩
  · cases i with
    | start => exact absurd rfl hi.1
    | final => exact absurd rfl hi.2
    | byte b =>
      refine ⟨hs.exec_byte h, ?_⟩
      cases (exec_byte_of_running hs.run b).symm.trans h
      exact ⟨_, rfl⟩
    | _ => exact absurd rfl hengine

/-- Commands other than `START` and `FINAL` absorb exactly their message bytes, and each is answered once. -/
theorem Computing.sendAll_commands {sp : Spec} {data : List Byte} {s : State} (hs : Computing sp data s)
    {is : List Instr} (his : ∀ i ∈ is, i ≠ .start ∧ i ≠ .final) :
    ∃ t rs, sendAll is s = .next t ∧ Computing sp (data ++ bytesOf is) t ∧
      t.responses = s.responses ++ rs ∧ rs.length = is.length := by
  induction is generalizing data s with
  | nil => exact ⟨s, [], rfl, by simpa [bytesOf] using hs, by simp, rfl⟩
  | cons i is ih =>
    obtain ⟨hi, his⟩ := List.forall_mem_cons.mp his
    obtain ⟨u, hu⟩ := exec_total i s
    obtain ⟨hcomp, r, hr⟩ := hs.exec_command hi hu
    obtain ⟨t, rs, ht, hcomp', hrs, hlen⟩ := ih hcomp his
    refine ⟨t, r :: rs, (sendAll_cons_of_exec hu is).trans ht, ?_, ?_, ?_⟩
    · rwa [bytesOf_cons, ← List.append_assoc]
    · simp [hrs, hr]
    · simp [hlen]

/-- `FINAL` in an open computation answers `Compute` over the bytes absorbed, closes it and keeps the spec (R87, R88). -/
theorem Computing.exec_final {sp : Spec} {data : List Byte} {s : State} (hs : Computing sp data s) :
    ∃ t, exec .final s = .next t ∧
      t.responses = s.responses ++ [⟨0, BitVec.ofNat 4 sp.w.bytes, zext64 (compute sp data)⟩] ∧
      t.run = false ∧ t.activeSpec = sp := by
  obtain ⟨hrun, rfl, _, hreg⟩ := hs
  refine ⟨_, exec_final_of_running hrun, ?_, rfl, rfl⟩
  rw [hreg]
  rfl

/-- Settles O34: `START` makes the state `Computing` over no bytes, the interleaved commands keep it so over theirs, and
`FINAL` answers from it. -/
theorem finalDependsOnlyOnSpecAndBytes : Obligations.FinalDependsOnlyOnSpecAndBytes := by
  intro s is hinv hspec his
  have hstart := exec_start_of_loaded hspec
  obtain ⟨u, rs, hu, hcomp, hrs, hlen⟩ := (computing_of_start hinv hspec hstart).sendAll_commands his
  obtain ⟨t, hfinal, hresp, hrun, hkept⟩ := hcomp.exec_final
  refine ⟨t, ⟨0, 0, 0⟩ ::
    (rs ++ [⟨0, BitVec.ofNat 4 s.activeSpec.w.bytes, zext64 (compute s.activeSpec (bytesOf is))⟩]), ?_, ?_, ?_, ?_,
    hrun, hkept⟩
  · rw [sendAll_cons_of_exec hstart, sendAll_append, hu, andThen_next, sendAll_cons_of_exec hfinal, sendAll_nil]
  · rw [hresp, hrs]
    simp
  · simp [hlen]
  · rw [← List.cons_append]
    exact List.getLast?_concat

end Sys2Proof.Machine
end

section
/-! PROOF. The Hex/Byte Codec (spec 43_hex_codec.md R100 to R114): the character classes as arithmetic on codes, the
equation of `HEXCH` and `HEXEND` for each case, the bytes of an accepted text, and the characters of a formatted value. -/

namespace Sys2Proof.Machine

open Sys2Proof

/-! ## Characters and digits (43_hex_codec.md R100, R104) -/

theorem isSep_iff {c : Byte} : isSep c = true ↔ c = 0x20 := beq_iff_eq

theorem isSep_eq_false_iff {c : Byte} : isSep c = false ↔ c ≠ 0x20 := beq_eq_false_iff_ne

/-- The three rows of the table of `HexVal`, as arithmetic on codes (R100). -/
theorem hexVal_eq_some_iff (c : Byte) (d : BitVec 4) : hexVal c = some d ↔
    (0x30 ≤ c.toNat ∧ c.toNat ≤ 0x39 ∧ d.toNat = c.toNat - 0x30) ∨
    (0x41 ≤ c.toNat ∧ c.toNat ≤ 0x46 ∧ d.toNat = c.toNat - 0x37) ∨
    (0x61 ≤ c.toNat ∧ c.toNat ≤ 0x66 ∧ d.toNat = c.toNat - 0x57) := by
  unfold hexVal
  split
  · rw [Option.some_inj]
    bv_omega
  · split
    · rw [Option.some_inj]
      bv_omega
    · split
      · rw [Option.some_inj]
        bv_omega
      · simp only [reduceCtorEq, false_iff]
        bv_omega

/-- A hex digit is no separator (R100). -/
theorem ne_space_of_hexVal {c : Byte} {d : BitVec 4} (h : hexVal c = some d) : c ≠ 0x20 := by
  rintro rfl
  exact absurd h nofun

/-- Settles O36: each branch of `hexVal` and of `hexDigit` is one row of the table. -/
theorem characterClasses : Obligations.CharacterClasses := by
  refine ⟨fun c => ?_, hexVal_eq_some_iff, fun d => ?_⟩
  · rw [isSep_iff, ← BitVec.toNat_inj]
    rfl
  · unfold hexDigit
    split <;> split <;> bv_omega

/-- The byte of two digits, the first the high nibble (R101). -/
theorem nibbles_toNat (hi lo : BitVec 4) : (hi ++ lo).toNat = hi.toNat * 16 + lo.toNat := by
  rw [BitVec.toNat_append, ← Nat.shiftLeft_add_eq_or_of_lt lo.isLt, Nat.shiftLeft_eq]

theorem setWidth_nibbles (hi lo : BitVec 4) (n : Nat) :
    (hi ++ lo).setWidth n = BitVec.ofNat n (hi.toNat * 16 + lo.toNat) := by
  rw [← nibbles_toNat, BitVec.ofNat_toNat]

/-! ## `HEXCH` and `HEXEND` (43_hex_codec.md R101, R102) -/

theorem whenTextGood_of_good {s : State} (hgood : s.hfail = false) (k : Host.Outcome State Fault Refusal) :
    whenTextGood s k = k := by
  simp only [whenTextGood, hgood]

theorem exec_hexch_of_failed {s : State} (hfail : s.hfail = true) (c : Byte) :
    exec (.hexch c) s = raise .malformedHexInput s := by
  simp only [exec, execHexch, whenTextGood, hfail]

theorem exec_hexch_space {s : State} (hgood : s.hfail = false) : exec (.hexch 0x20) s = answer 0 0 s :=
  whenTextGood_of_good hgood _

theorem exec_hexch_foreign {s : State} {c : Byte} (hgood : s.hfail = false) (hsep : c ≠ 0x20)
    (hval : hexVal c = none) : exec (.hexch c) s = raise .malformedHexInput s.failText := by
  refine (whenTextGood_of_good hgood _).trans ?_
  simp only [isSep_eq_false_iff.mpr hsep, hval]

theorem exec_hexch_first {s : State} {c : Byte} {d : BitVec 4} (hgood : s.hfail = false) (hval : hexVal c = some d)
    (hhalf : s.hhalf = false) : exec (.hexch c) s = answer 0 0 (s.keepNibble d) := by
  refine (whenTextGood_of_good hgood _).trans ?_
  simp only [isSep_eq_false_iff.mpr (ne_space_of_hexVal hval), hval, hhalf]

theorem exec_hexch_second {s : State} {c : Byte} {d : BitVec 4} (hgood : s.hfail = false) (hval : hexVal c = some d)
    (hhalf : s.hhalf = true) :
    exec (.hexch c) s = answer 1 (BitVec.ofNat 64 (s.hnib.toNat * 16 + d.toNat)) s.clearHalf := by
  refine (whenTextGood_of_good hgood _).trans ?_
  simp only [isSep_eq_false_iff.mpr (ne_space_of_hexVal hval), hval, hhalf, setWidth_nibbles]

/-- Settles O37: the clauses of the statement are the gate and the four arms of `execHexch`. -/
theorem hexchFollowsItsRule : Obligations.HexchFollowsItsRule := by
  refine ⟨decode_operand .hexch, fun s c => ⟨fun hfail => ?_, ?_, fun d hgood hval hhalf => ?_,
    fun d hgood hval hhalf => ?_, fun hgood hsep hval => ?_⟩⟩
  · exact (exec_hexch_of_failed hfail c).trans (raise_eq _ s)
  · rintro hgood rfl
    exact (exec_hexch_space hgood).trans (answer_eq 0 0 s)
  · exact (exec_hexch_first hgood hval hhalf).trans (answer_eq 0 0 _)
  · exact (exec_hexch_second hgood hval hhalf).trans (answer_eq 1 _ _)
  · exact (exec_hexch_foreign hgood hsep hval).trans (raise_eq _ _)

theorem exec_hexend_of_bad {s : State} (hbad : s.hfail = true ∨ s.hhalf = true) :
    exec .hexend s = raise .malformedHexInput s.clearText := by
  have hflags : (s.hfail || s.hhalf) = true := Bool.or_eq_true_iff.mpr hbad
  simp only [exec, execHexend, hflags]

theorem exec_hexend_of_good {s : State} (hgood : s.hfail = false) (hhalf : s.hhalf = false) :
    exec .hexend s = answer 0 0 s.clearText := by
  simp only [exec, execHexend, hgood, hhalf, Bool.or_self]

/-- Settles O38: the verdict is the disjunction of the two flags, and both outcomes are given from `clearText`. -/
theorem hexendGivesTheVerdict : Obligations.HexendGivesTheVerdict :=
  ⟨fun _ => decode_of_no_operand (m := .hexend) rfl, rfl, fun _ =>
    ⟨fun hbad => (exec_hexend_of_bad hbad).trans (raise_eq _ _),
      fun hgood hhalf => (exec_hexend_of_good hgood hhalf).trans (answer_eq 0 0 _)⟩⟩

/-! ## `ParseHex` (43_hex_codec.md R103, R113) -/

/-- What `parseHex` checks of each character. -/
theorem all_hexChars_iff {text : Text} :
    (text.all fun c => isSep c || (hexVal c).isSome) = true ↔ ∀ c ∈ text, c = 0x20 ∨ hexVal c ≠ none := by
  simp only [List.all_eq_true, Bool.or_eq_true, isSep_iff, Option.isSome_iff_ne_none]

theorem parseHex_of_foreign {text : Text} (h : ¬ ∀ c ∈ text, c = 0x20 ∨ hexVal c ≠ none) :
    parseHex text = .error .malformedHexInput :=
  if_neg (mt all_hexChars_iff.mp h)

theorem parseHex_of_odd {text : Text} (h : (text.filterMap hexVal).length % 2 ≠ 0) :
    parseHex text = .error .malformedHexInput := by
  simp only [parseHex, if_neg h, ite_self]

theorem parseHex_of_good {text : Text} (hchars : ∀ c ∈ text, c = 0x20 ∨ hexVal c ≠ none)
    (heven : (text.filterMap hexVal).length % 2 = 0) : parseHex text = .ok (pairUp (text.filterMap hexVal)) :=
  (if_pos (all_hexChars_iff.mpr hchars)).trans (if_pos heven)

/-- No digit is dropped from an even number of them. -/
theorem two_mul_length_pairUp : ∀ ds : List (BitVec 4), ds.length % 2 = 0 → 2 * (pairUp ds).length = ds.length
  | [], _ => rfl
  | [_], heven => absurd heven Nat.one_ne_zero
  | hi :: lo :: rest, heven => by
    have ih := two_mul_length_pairUp rest ((Nat.add_mod_right _ 2).symm.trans heven)
    simp only [pairUp_cons_cons, List.length_cons]
    omega

/-- Byte `k` is made of the digits `2k` and `2k+1`. -/
theorem pairUp_getElem? {hi lo : BitVec 4} : ∀ (ds : List (BitVec 4)) (k : Nat), ds[2 * k]? = some hi →
    ds[2 * k + 1]? = some lo → (pairUp ds)[k]? = some (hi ++ lo)
  | [], _, hhi, _ => absurd hhi nofun
  | [_], _, _, hlo => absurd hlo nofun
  | _ :: _ :: _, 0, hhi, hlo => by
    cases hhi
    cases hlo
    rfl
  | _ :: _ :: rest, k + 1, hhi, hlo => pairUp_getElem? rest k hhi hlo

/-- A separator is no digit and always allowed, so `parseHex` does not see it. -/
theorem parseHex_filter_ne_space (text : Text) : parseHex (text.filter fun c => c != 0x20) = parseHex text := by
  have hall : (text.filter fun c => c != 0x20).all (fun c => isSep c || (hexVal c).isSome) =
      text.all fun c => isSep c || (hexVal c).isSome := by
    rw [Bool.eq_iff_iff, all_hexChars_iff, all_hexChars_iff]
    simp only [List.mem_filter, bne_iff_ne, and_imp]
    refine forall₂_congr fun c _ => ?_
    by_cases hc : c = 0x20
    · exact iff_of_true (fun h => absurd hc h) (.inl hc)
    · exact imp_iff_right hc
  have hdigits : (text.filter fun c => c != 0x20).filterMap hexVal = text.filterMap hexVal := by
    rw [List.filterMap_filter]
    refine List.filterMap_congr fun c _ => ?_
    by_cases hc : c = 0x20
    · subst hc
      rfl
    · rw [if_pos (bne_iff_ne.mpr hc)]
  simp only [parseHex, hall, hdigits]

/-- Settles O40: the two checks of `parseHex` are the two ways to fail, and what passes both is paired up. -/
theorem parseHexIsStrict : Obligations.ParseHexIsStrict := by
  intro text
  simp only [← List.length_filterMap_eq_countP]
  refine ⟨?_, fun hodd => parseHex_of_odd (by omega), fun hchars heven => ?_, parseHex_filter_ne_space text⟩
  · rintro ⟨c, hc, hsep, hval⟩
    exact parseHex_of_foreign fun hchars => (hchars c hc).elim hsep (absurd hval)
  · refine ⟨_, parseHex_of_good hchars heven, two_mul_length_pairUp _ heven, fun k hi lo hhi hlo => ?_⟩
    rw [← setWidth_nibbles, BitVec.setWidth_eq]
    exact pairUp_getElem? _ k hhi hlo

/-! ## `FormatHex` (43_hex_codec.md R105 to R111) -/

/-- The display order as places of bytes in the value (R105). -/
theorem displayBytes_getElem? (v : Word) (w : Width) (le : Bool) {j : Nat} (hj : j < w.bytes) :
    (displayBytes v w le)[j]? = some (byteOf v (if le then j else w.bytes - 1 - j)) := by
  cases le <;> simp [displayBytes, hj]

/-- Two characters for each byte, the high nibble first. -/
theorem flatMap_byteText_getElem? (bs : List Byte) {j : Nat} {b : Byte} (hb : bs[j]? = some b) :
    (bs.flatMap byteText)[2 * j]? = some (hexDigit (b.extractLsb' 4 4)) ∧
      (bs.flatMap byteText)[2 * j + 1]? = some (hexDigit (b.extractLsb' 0 4)) := by
  induction bs generalizing j with
  | nil => simp at hb
  | cons b' bs ih =>
    cases j with
    | zero =>
      cases hb
      exact ⟨rfl, rfl⟩
    | succ j => exact ih hb

/-- The nibble at bit `i` of a byte is a nibble of the value. -/
theorem byteOf_nibble (v : Word) (j : Nat) {i : Nat} (hi : i + 4 ≤ 8) :
    (byteOf v j).extractLsb' i 4 = v.extractLsb' (8 * j + i) 4 := by
  refine BitVec.eq_of_getLsbD_eq fun b hb => ?_
  have hbyte : i + b < 8 := by omega
  simp only [byteOf, BitVec.getLsbD_extractLsb', hb, hbyte, Nat.add_assoc, decide_true, Bool.true_and]

/-- A character of the text of a value is the item of its packing at that place (R39). -/
theorem pack_formatHex_item {v : Word} {w : Width} {le : Bool} {k : Nat} {c : Byte}
    (hc : (formatHex v w le)[k]? = some c) : (pack (formatHex v w le)).extractLsb' (8 * k) 8 = c := by
  obtain ⟨hk, rfl⟩ := List.getElem?_eq_some_iff.mp hc
  have hlen : (formatHex v w le).length ≤ 8 := by
    rw [formatHex_length]
    cases w <;> decide
  exact itemOf_pack _ k hk (hk.trans_le hlen)

/-- The two characters of the byte at place `j` of the display order, for an operand of any size presented as a word. -/
theorem pack_formatHex_byte {n : Nat} (v : BitVec n) (w : Width) (le : Bool) {j p : Nat} (hj : j < w.bytes)
    (hp : p = if le then j else w.bytes - 1 - j) :
    (pack (formatHex (v.setWidth 32) w le)).extractLsb' (16 * j) 8 = hexDigit (v.extractLsb' (8 * p + 4) 4) ∧
    (pack (formatHex (v.setWidth 32) w le)).extractLsb' (16 * j + 8) 8 = hexDigit (v.extractLsb' (8 * p) 4) := by
  have hbytes : w.bytes ≤ 4 := by cases w <;> decide
  have hplace : p < 4 := by
    subst hp
    split <;> omega
  obtain ⟨hhi, hlo⟩ := flatMap_byteText_getElem? _ (displayBytes_getElem? (v.setWidth 32) w le hj)
  rw [← hp, byteOf_nibble _ _ (by decide), BitVec.extractLsb'_setWidth_of_le (by omega)] at hhi hlo
  have h := And.intro (pack_formatHex_item hhi) (pack_formatHex_item hlo)
  rwa [← Nat.mul_assoc, Nat.mul_add, ← Nat.mul_assoc] at h

/-- Most-significant byte first, the nibbles stand in the order they are written in (R106, R108, R110). -/
theorem pack_formatHex_be {n : Nat} (v : BitVec n) (w : Width) {k : Nat} (hk : k < 2 * w.bytes) :
    (pack (formatHex (v.setWidth 32) w false)).extractLsb' (8 * k) 8 =
      hexDigit (v.extractLsb' (4 * (2 * w.bytes - 1 - k)) 4) := by
  have hj : k / 2 < w.bytes := by omega
  obtain ⟨hhi, hlo⟩ := pack_formatHex_byte v w false hj (p := w.bytes - 1 - k / 2) rfl
  obtain heven | hodd := Nat.mod_two_eq_zero_or_one k
  · rw [show 8 * k = 16 * (k / 2) by omega, hhi,
      show 8 * (w.bytes - 1 - k / 2) + 4 = 4 * (2 * w.bytes - 1 - k) by omega]
  · rw [show 8 * k = 16 * (k / 2) + 8 by omega, hlo,
      show 8 * (w.bytes - 1 - k / 2) = 4 * (2 * w.bytes - 1 - k) by omega]

/-- The text of a value takes sixteen bits for each byte. -/
theorem pack_formatHex_lt (v : Word) (w : Width) (le : Bool) :
    (pack (formatHex v w le)).toNat < 2 ^ (16 * w.bytes) := by
  have h := pack_lt (formatHex v w le)
  rwa [formatHex_length, ← Nat.mul_assoc] at h

/-- What the `BE` commands do, for each size (R106, R108, R110). -/
theorem answerText_be {n : Nat} (v : BitVec n) (w : Width) (s : State) :
    ∃ d : RspData,
      answerText (v.setWidth 32) w false s =
        .next { s with responses := s.responses ++ [⟨0, BitVec.ofNat 4 (2 * w.bytes), d⟩] } ∧
      d.toNat < 2 ^ (16 * w.bytes) ∧
      ∀ k, k < 2 * w.bytes → d.extractLsb' (8 * k) 8 = hexDigit (v.extractLsb' (4 * (2 * w.bytes - 1 - k)) 4) :=
  ⟨_, answer_eq _ _ s, pack_formatHex_lt _ w false, fun _ => pack_formatHex_be v w⟩

/-- What the `LE` commands do, for each size (R107, R109, R111). -/
theorem answerText_le {n : Nat} (v : BitVec n) (w : Width) (s : State) :
    ∃ d : RspData,
      answerText (v.setWidth 32) w true s =
        .next { s with responses := s.responses ++ [⟨0, BitVec.ofNat 4 (2 * w.bytes), d⟩] } ∧
      d.toNat < 2 ^ (16 * w.bytes) ∧
      ∀ j, j < w.bytes →
        d.extractLsb' (16 * j) 8 = hexDigit (v.extractLsb' (8 * j + 4) 4) ∧
        d.extractLsb' (16 * j + 8) 8 = hexDigit (v.extractLsb' (8 * j) 4) :=
  ⟨_, answer_eq _ _ s, pack_formatHex_lt _ w true, fun _ hj => pack_formatHex_byte v w true hj rfl⟩

/-- The byte order makes no difference to a single byte (R107). -/
theorem exec_fmt1le (v : BitVec 8) (s : State) : exec (.fmt1le v) s = exec (.fmt1be v) s := rfl

/-- R110 in the form of R106 and R108: the operand of `FMT4.BE` is a word as it stands. -/
theorem exec_fmt4be (v : BitVec 32) (s : State) : exec (.fmt4be v) s = answerText (v.setWidth 32) .w32 false s := by
  rw [BitVec.setWidth_eq]
  rfl

/-- R111 in the form of R107 and R109: the operand of `FMT4.LE` is a word as it stands. -/
theorem exec_fmt4le (v : BitVec 32) (s : State) : exec (.fmt4le v) s = answerText (v.setWidth 32) .w32 true s := by
  rw [BitVec.setWidth_eq]
  rfl

/-- Settles O41: each command is `answerText` of its size and order, and each word is judged by the used bits of its
mnemonic, which for the two `FMT4` commands are all of `arg`. -/
theorem fmtCommandsAnswerTheText : Obligations.FmtCommandsAnswerTheText := by
  refine ⟨fun s v => ⟨answerText_be v .w8 s, ?_⟩, fun s v => ⟨answerText_be v .w16 s, answerText_le v .w16 s⟩,
    fun s v => ⟨?_, ?_⟩, fun arg => ⟨decode_operand .fmt1be arg, decode_operand .fmt1le arg, decode_operand .fmt2be arg,
      decode_operand .fmt2le arg, decode_of_fits (m := .fmt4be) arg.isLt, decode_of_fits (m := .fmt4le) arg.isLt⟩⟩
  · rw [exec_fmt1le]
    exact answerText_be v .w8 s
  · obtain ⟨d, hd, -, hchars⟩ := answerText_be v .w32 s
    exact ⟨d, (exec_fmt4be v s).trans hd, hchars⟩
  · obtain ⟨d, hd, -, hchars⟩ := answerText_le v .w32 s
    exact ⟨d, (exec_fmt4le v s).trans hd, hchars⟩

end Sys2Proof.Machine
end

section
/-! PROOF. The host procedures (spec 44_host_procedures.md R124): the list of names, by the table it is made from. -/

namespace Sys2Proof.Machine

open Sys2Proof

@[simp] theorem listAlgorithms_nil (wc : Width) : listAlgorithms [] wc = [] := rfl

/-- The rows of a width are taken without changing their order. -/
@[simp] theorem listAlgorithms_append (t u : Table) (wc : Width) :
    listAlgorithms (t ++ u) wc = listAlgorithms t wc ++ listAlgorithms u wc := by
  unfold listAlgorithms
  rw [List.filter_append, List.map_append]

/-- A row is listed exactly when its width is the one asked for. -/
theorem listAlgorithms_singleton (row : Row) (wc : Width) :
    listAlgorithms [row] wc = if row.width = wc.bits then [row.name] else [] := by
  unfold listAlgorithms
  split
  case isTrue h => simp [h]
  case isFalse h => simp [h]

/-- Settles O58: the three equations fix the list for every table, row by row. -/
theorem listAlgorithmsKeepsTableOrder : Obligations.ListAlgorithmsKeepsTableOrder :=
  fun t u wc row => ⟨listAlgorithms_nil wc, listAlgorithms_append t u wc, listAlgorithms_singleton row wc⟩

end Sys2Proof.Machine
end

section
/-! PROOF. The errors (spec 60_exceptions.md R140 to R148): the error a word raises as a function of the word and the
state, the state a failing command leaves, and the causes of each error code. -/

namespace Sys2Proof.Machine

open Sys2Proof

/-! ## Which error is raised, and what it writes (60_exceptions.md R141 to R148) -/

/-- The error that a command raises, if it raises one, with the checks in the order of R147. -/
def execError (i : Instr) (s : State) : Option ErrorKind :=
  match i with
  | .ldspec =>
    if s.run = true then some .sequenceError
    else if stagedWidth s = none then some .invalidSpec
    else if rowRefIn s.rowCtrl = rowRefOut s.rowCtrl then none
    else some .unsupportedSpec
  | .start => if s.specv = false then some .sequenceError else none
  | .byte _ | .final => if s.run = false then some .sequenceError else none
  | .hexch c => if s.hfail = true ∨ (c ≠ 0x20 ∧ hexVal c = none) then some .malformedHexInput else none
  | .hexend => if s.hfail = true ∨ s.hhalf = true then some .malformedHexInput else none
  | _ => none

/-- The registers after a command that fails: `HEXCH` sets `HFAIL`, `HEXEND` clears both flags, and no other command
writes anything (R148). -/
def failedState (i : Instr) (s : State) : State :=
  match i with
  | .hexch _ => s.failText
  | .hexend => s.clearText
  | _ => s

/-- The error that a word raises, if it raises one: a word that is no command raises `IllegalCommand` (R146). -/
def wordError (w : CmdWord) (s : State) : Option ErrorKind :=
  match decode w with
  | .ok i => execError i s
  | .error _ => some .illegalCommand

/-- The registers after a word that is answered with an error. -/
def wordFailedState (w : CmdWord) (s : State) : State :=
  match decode w with
  | .ok i => failedState i s
  | .error _ => s

/-- Setting `HFAIL` in a text that has already failed writes nothing. -/
theorem failText_of_failed {s : State} (hfail : s.hfail = true) : s.failText = s := by
  cases s
  cases hfail
  rfl

/-- The command is answered with success, from a state that has the responses of `s`. -/
def Succeeds (i : Instr) (s : State) : Prop :=
  ∃ (n : BitVec 4) (data : RspData) (u : State), u.responses = s.responses ∧ exec i s = answer n data u

/-- The outcome of a command is the one `execError` announces. -/
def OutcomeAsAnnounced (i : Instr) (s : State) : Prop :=
  (∃ e, execError i s = some e ∧ exec i s = raise e (failedState i s)) ∨ (execError i s = none ∧ Succeeds i s)

theorem ldspec_asAnnounced (s : State) : OutcomeAsAnnounced .ldspec s := by
  by_cases hrun : s.run = true
  · exact .inl ⟨_, if_pos hrun, execLdspec_of_run hrun⟩
  have hidle : s.run = false := Bool.eq_false_iff.mpr hrun
  cases hrow : stagedWidth s with
  | none => exact .inl ⟨.invalidSpec, by simp [execError, hrun, hrow], execLdspec_of_illFormed hidle hrow⟩
  | some w =>
    have hexec := execLdspec_of_wellFormed hidle hrow
    by_cases hflags : rowRefIn s.rowCtrl = rowRefOut s.rowCtrl
    · exact .inr ⟨by simp [execError, hrun, hrow, hflags], 0, 0, commitRow w s, rfl, hexec.trans (if_pos hflags)⟩
    · exact .inl ⟨.unsupportedSpec, by simp [execError, hrun, hrow, hflags], hexec.trans (if_neg hflags)⟩

theorem hexch_asAnnounced (c : Byte) (s : State) : OutcomeAsAnnounced (.hexch c) s := by
  by_cases hfail : s.hfail = true
  · refine .inl ⟨_, if_pos (.inl hfail), ?_⟩
    rw [exec_hexch_of_failed hfail, failedState, failText_of_failed hfail]
  have hgood : s.hfail = false := Bool.eq_false_iff.mpr hfail
  by_cases hsep : c = 0x20
  · subst hsep
    exact .inr ⟨by simp [execError, hgood], _, _, s, rfl, exec_hexch_space hgood⟩
  cases hval : hexVal c with
  | none => exact .inl ⟨_, if_pos (.inr ⟨hsep, hval⟩), exec_hexch_foreign hgood hsep hval⟩
  | some d =>
    refine .inr ⟨by simp [execError, hgood, hval], ?_⟩
    cases hhalf : s.hhalf with
    | false => exact ⟨_, _, s.keepNibble d, rfl, exec_hexch_first hgood hval hhalf⟩
    | true => exact ⟨_, _, s.clearHalf, rfl, exec_hexch_second hgood hval hhalf⟩

theorem hexend_asAnnounced (s : State) : OutcomeAsAnnounced .hexend s := by
  by_cases hbad : s.hfail = true ∨ s.hhalf = true
  · exact .inl ⟨_, if_pos hbad, exec_hexend_of_bad hbad⟩
  · obtain ⟨hgood, hhalf⟩ := not_or.mp hbad
    exact .inr ⟨if_neg hbad, _, _, s.clearText, rfl,
      exec_hexend_of_good (Bool.eq_false_iff.mpr hgood) (Bool.eq_false_iff.mpr hhalf)⟩

/-- What every command does: it raises its error from its failed state, or it has none and succeeds. -/
theorem exec_asAnnounced (i : Instr) (s : State) : OutcomeAsAnnounced i s := by
  cases i with
  | ldspec => exact ldspec_asAnnounced s
  | start =>
    cases hspec : s.specv with
    | false => exact .inl ⟨_, if_pos hspec, whenLoaded_of_unloaded hspec _⟩
    | true =>
      exact .inr ⟨by simp [execError, hspec], _, _, (s.setReg s.init).openRun, rfl, whenLoaded_of_loaded hspec _⟩
  | byte b =>
    cases hrun : s.run with
    | false => exact .inl ⟨_, if_pos hrun, whenRunning_of_idle hrun _⟩
    | true =>
      exact .inr ⟨by simp [execError, hrun], _, _, s.setReg (absorb s.w s.poly s.rpoly s.refIn s.reg b), rfl,
        whenRunning_of_running hrun _⟩
  | final =>
    cases hrun : s.run with
    | false => exact .inl ⟨_, if_pos hrun, whenRunning_of_idle hrun _⟩
    | true => exact .inr ⟨by simp [execError, hrun], _, _, s.closeRun, rfl, whenRunning_of_running hrun _⟩
  | hexch c => exact hexch_asAnnounced c s
  | hexend => exact hexend_asAnnounced s
  | rowctl width refIn refOut => exact .inr ⟨rfl, _, _, s.stageCtl (ctlBits width refIn refOut), rfl, rfl⟩
  | rowpoly p => exact .inr ⟨rfl, _, _, s.stagePoly p, rfl, rfl⟩
  | rowinit v => exact .inr ⟨rfl, _, _, s.stageInit v, rfl, rfl⟩
  | rowxor x => exact .inr ⟨rfl, _, _, s.stageXor x, rfl, rfl⟩
  | _ => exact .inr ⟨rfl, _, _, s, rfl, rfl⟩

theorem wordError_of_decode_ok {w : CmdWord} {i : Instr} (h : decode w = .ok i) (s : State) :
    wordError w s = execError i s := by
  simp only [wordError, h]

theorem wordFailedState_of_decode_ok {w : CmdWord} {i : Instr} (h : decode w = .ok i) (s : State) :
    wordFailedState w s = failedState i s := by
  simp only [wordFailedState, h]

/-- What every word does. -/
theorem runWord_asAnnounced (w : CmdWord) (s : State) :
    (∃ e, wordError w s = some e ∧ runWord w s = raise e (wordFailedState w s)) ∨
    (wordError w s = none ∧ ∃ n data u, u.responses = s.responses ∧ runWord w s = answer n data u) := by
  cases hdec : decode w with
  | error e =>
    exact .inl ⟨.illegalCommand, by simp only [wordError, hdec], by simp only [runWord, wordFailedState, hdec]⟩
  | ok i =>
    rw [wordError_of_decode_ok hdec, wordFailedState_of_decode_ok hdec, runWord_of_decode_ok hdec]
    exact exec_asAnnounced i s

/-! ## The one response of a word (60_exceptions.md R140, R148) -/

theorem failedState_responses (i : Instr) (s : State) : (failedState i s).responses = s.responses := by
  cases i <;> rfl

theorem wordFailedState_responses (w : CmdWord) (s : State) : (wordFailedState w s).responses = s.responses := by
  cases hdec : decode w with
  | error e => simp only [wordFailedState, hdec]
  | ok i => rw [wordFailedState_of_decode_ok hdec, failedState_responses]

/-- The response that is driven is the one the host sees added. -/
theorem eq_of_respond_responses {s u : State} {st : BitVec 8} {n : BitVec 4} {data : RspData} {r : Response}
    (hu : u.responses = s.responses) (hr : (respond st n data u).responses = s.responses ++ [r]) :
    r = ⟨st, n, data⟩ := by
  simpa [hu] using hr.symm

/-- The response of a word and the state it leaves, by the error it raises. -/
theorem response_of_runWord {w : CmdWord} {s t : State} {r : Response} (h : runWord w s = .next t)
    (hr : t.responses = s.responses ++ [r]) :
    (∃ e, wordError w s = some e ∧ r = ⟨errorCode e, 0, 0⟩ ∧
      t = { wordFailedState w s with responses := t.responses }) ∨
    (wordError w s = none ∧ r.st = okCode) := by
  obtain ⟨e, herr, hrun⟩ | ⟨herr, n, data, u, hu, hrun⟩ := runWord_asAnnounced w s
  · cases raise_next_iff.mp (hrun.symm.trans h)
    exact .inl ⟨e, herr, eq_of_respond_responses (wordFailedState_responses w s) hr, rfl⟩
  · cases answer_next_iff.mp (hrun.symm.trans h)
    exact .inr ⟨herr, congrArg Response.st (eq_of_respond_responses hu hr)⟩

/-- The status code for an error, or for none. -/
def statusOf : Option ErrorKind → BitVec 8
  | none => okCode
  | some e => errorCode e

/-- A host reads the error back from the status (R140). -/
theorem leftInverse_errorOfCode_statusOf : Function.LeftInverse errorOfCode statusOf
  | none => rfl
  | some e => by cases e <;> rfl

theorem statusOf_eq_errorCode_iff {o : Option ErrorKind} {e : ErrorKind} : statusOf o = errorCode e ↔ o = some e :=
  leftInverse_errorOfCode_statusOf.injective.eq_iff (b := some e)

theorem statusOf_le (o : Option ErrorKind) : (statusOf o).toNat ≤ 6 := by
  cases o with
  | none => decide
  | some e => cases e <;> decide

theorem status_of_runWord {w : CmdWord} {s t : State} {r : Response} (h : runWord w s = .next t)
    (hr : t.responses = s.responses ++ [r]) : r.st = statusOf (wordError w s) := by
  obtain ⟨e, herr, rfl, _⟩ | ⟨herr, hst⟩ := response_of_runWord h hr
  · rw [herr]
    rfl
  · rw [herr, hst]
    rfl

/-! ## The causes of each error (60_exceptions.md R141 to R146) -/

/-- The staged row is well-formed (R60). -/
def StagedFits (s : State) : Prop :=
  (rowWidth s.rowCtrl = 8 ∨ rowWidth s.rowCtrl = 16 ∨ rowWidth s.rowCtrl = 32) ∧
    s.rowPoly.toNat < 2 ^ rowWidth s.rowCtrl ∧ s.rowInit.toNat < 2 ^ rowWidth s.rowCtrl ∧
    s.rowXor.toNat < 2 ^ rowWidth s.rowCtrl

theorem stagedWidth_eq_none_iff {s : State} : stagedWidth s = none ↔ ¬ StagedFits s := wellFormedWidth_eq_none_iff

/-- The causes of each error, for a decoded word: the block never raises `UnknownAlgorithm` (R142). -/
def Caused (d : Except Reject Instr) (s : State) : ErrorKind → Prop
  | .malformedHexInput =>
    (∃ c, d = .ok (.hexch c) ∧ (s.hfail = true ∨ (c ≠ 0x20 ∧ hexVal c = none))) ∨
    (d = .ok .hexend ∧ (s.hfail = true ∨ s.hhalf = true))
  | .unknownAlgorithm => False
  | .invalidSpec => d = .ok .ldspec ∧ s.run = false ∧ ¬ StagedFits s
  | .unsupportedSpec =>
    d = .ok .ldspec ∧ s.run = false ∧ StagedFits s ∧ s.rowCtrl.getLsbD 8 ≠ s.rowCtrl.getLsbD 9
  | .sequenceError =>
    (d = .ok .start ∧ s.specv = false) ∨ ((∃ b, d = .ok (.byte b)) ∧ s.run = false) ∨
    (d = .ok .final ∧ s.run = false) ∨ (d = .ok .ldspec ∧ s.run = true)
  | .illegalCommand => ∀ i, d ≠ .ok i

/-- The three checks of `LDSPEC` are three causes, each with those before it passed (R147). -/
theorem execError_ldspec_iff {s : State} {e : ErrorKind} :
    execError .ldspec s = some e ↔ Caused (.ok .ldspec) s e := by
  unfold execError
  by_cases hrun : s.run = true
  · cases e <;> simp [Caused, hrun]
  by_cases hfits : StagedFits s
  · have hrow : stagedWidth s ≠ none := mt stagedWidth_eq_none_iff.mp (not_not.mpr hfits)
    cases e <;> simp [Caused, hrun, hrow, hfits, rowRefIn, rowRefOut]
  · cases e <;> simp [Caused, hrun, stagedWidth_eq_none_iff.mpr hfits, hfits]

/-- A command raises an error exactly for its cause. -/
theorem execError_eq_some_iff {i : Instr} {s : State} {e : ErrorKind} :
    execError i s = some e ↔ Caused (.ok i) s e := by
  cases i with
  | ldspec => exact execError_ldspec_iff
  | hexch c | hexend => cases e <;> simp [execError, Caused, or_iff_not_imp_left]
  | _ => cases e <;> simp [execError, Caused]

/-- A word raises an error exactly for its cause. -/
theorem wordError_eq_some_iff {w : CmdWord} {s : State} {e : ErrorKind} :
    wordError w s = some e ↔ Caused (decode w) s e := by
  cases hdec : decode w with
  | error _ =>
    simp only [wordError, hdec]
    cases e <;> simp [Caused]
  | ok i => rw [wordError_of_decode_ok hdec, execError_eq_some_iff]

/-- Only the two commands of the parser write anything when they fail, and they raise `MalformedHexInput` alone. -/
theorem wordFailedState_of_ne_malformed {w : CmdWord} {s : State} {e : ErrorKind} (herr : wordError w s = some e)
    (he : e ≠ .malformedHexInput) : wordFailedState w s = s := by
  cases hdec : decode w with
  | error _ => simp only [wordFailedState, hdec]
  | ok i =>
    rw [wordFailedState_of_decode_ok hdec]
    rw [wordError_of_decode_ok hdec] at herr
    cases i with
    | hexch _ | hexend =>
      obtain ⟨_, hkind⟩ := Option.ite_none_right_eq_some.mp herr
      exact absurd (Option.some.inj hkind).symm he
    | _ => rfl

/-- The errors with codes 3 to 6 are not `MalformedHexInput`. -/
theorem ne_malformed_of_three_le {e : ErrorKind} (h : 3 ≤ (errorCode e).toNat) : e ≠ .malformedHexInput := by
  rintro rfl
  exact absurd h (by decide)

/-- Settles O44: the status is the code of the word's error, `Caused` gives the causes of each, and the failed state
what is written. -/
theorem errorsHaveExactlyTheseCauses : Obligations.ErrorsHaveExactlyTheseCauses := by
  intro s t w r h hr n fits
  have hiff (e : ErrorKind) : r.st = errorCode e ↔ Caused (decode w) s e := by
    rw [status_of_runWord h hr, statusOf_eq_errorCode_iff, wordError_eq_some_iff]
  refine ⟨hiff .malformedHexInput, (hiff .unknownAlgorithm).mp, hiff .invalidSpec, hiff .unsupportedSpec,
    hiff .sequenceError, hiff .illegalCommand, status_of_runWord h hr ▸ statusOf_le _, fun hcode => ?_, fun hcode => ?_⟩
  · obtain ⟨e, herr, rfl, ht⟩ | ⟨_, hok⟩ := response_of_runWord h hr
    · rwa [wordFailedState_of_ne_malformed herr (ne_malformed_of_three_le hcode)] at ht
    · exact absurd (hok ▸ hcode) (by decide)
  · obtain ⟨e, herr, rfl, ht⟩ | ⟨_, hok⟩ := response_of_runWord h hr
    · obtain ⟨c, hdec, _⟩ | ⟨hdec, _⟩ := (hiff .malformedHexInput).mp hcode
      · exact .inl ⟨⟨c, hdec⟩, by rwa [wordFailedState_of_decode_ok hdec] at ht⟩
      · exact .inr ⟨hdec, by rwa [wordFailedState_of_decode_ok hdec] at ht⟩
    · exact absurd (hok.symm.trans hcode) (by decide)

/-- Settles O45: an error other than `MalformedHexInput` writes nothing, and of its causes only a foreign character in
a good text and `HEXEND` write flags. -/
theorem failingCommandWritesNoState : Obligations.FailingCommandWritesNoState := by
  intro s t w r h hr hst
  obtain ⟨e, herr, rfl, ht⟩ | ⟨_, hok⟩ := response_of_runWord h hr
  · refine ⟨rfl, rfl, ?_⟩
    by_cases he : e = .malformedHexInput
    · subst he
      obtain ⟨c, hdec, hcause⟩ | ⟨hdec, _⟩ := wordError_eq_some_iff.mp herr
      · rw [wordFailedState_of_decode_ok hdec] at ht
        by_cases hfail : s.hfail = true
        · rw [failedState, failText_of_failed hfail] at ht
          exact .inl ht
        · obtain ⟨hsep, hval⟩ := hcause.resolve_left hfail
          exact .inr (.inl ⟨c, hdec, Bool.eq_false_iff.mpr hfail, hsep, hval, ht⟩)
      · rw [wordFailedState_of_decode_ok hdec] at ht
        exact .inr (.inr ⟨hdec, ht⟩)
    · exact .inl (by rwa [wordFailedState_of_ne_malformed herr he] at ht)
  · exact absurd hok hst

end Sys2Proof.Machine
end

section
/-! PROOF. The decoder and the encoder as inverses of each other (spec 30_encoding.md R40 to R51): the operand of a
command read off its word, the words of each command, and the assembler. -/

namespace Sys2Proof

/-! ## From commands to words and back (30_encoding.md R40 to R44) -/

/-- Settles O2: the opcode of a command selects its mnemonic, and its operand fits and is read back. -/
theorem decodeEncodeAgree : Obligations.DecodeEncodeAgree := decode_encode

/-- The low bits of a value that fits them are the value. -/
theorem setWidth_extractLsb'_of_lt {n : Nat} {v : Word} (h : v.toNat < 2 ^ n) :
    (v.extractLsb' 0 n).setWidth 32 = v := by
  apply BitVec.eq_of_toNat_eq
  rw [BitVec.toNat_setWidth, BitVec.extractLsb'_toNat, Nat.shiftRight_zero, Nat.mod_eq_of_lt h, Nat.mod_eq_of_lt v.isLt]

theorem eq_zero_of_lt_one {v : Word} (h : v.toNat < 2 ^ 0) : v = 0 :=
  BitVec.eq_of_toNat_eq (Nat.lt_one_iff.mp h)

/-- The operand of the command built from a legal `arg` is that `arg` (R43, R44). -/
theorem argOf_build {m : Mnemonic} {arg : Word} (h : arg.toNat < 2 ^ m.usedBits) : argOf (build m arg) = arg := by
  cases m with
  | rowctl =>
    rw [build, argOf, ctlBits_fields]
    exact setWidth_extractLsb'_of_lt h
  | ldspec | start | final | hexend => exact (eq_zero_of_lt_one h).symm
  | byte | refl8 | hexch | fmt1be | fmt1le | refl16 | fmt2be | fmt2le => exact setWidth_extractLsb'_of_lt h
  | rowpoly | rowinit | rowxor | refl32 | fmt4be | fmt4le => rfl

/-- A word that decodes to a command is the word of that command (R40 to R48). -/
theorem encode_of_decode {w : CmdWord} {i : Instr} (h : decode w = .ok i) : encode i = w := by
  obtain ⟨_, hdec⟩ | ⟨_, _, _, hdec⟩ | ⟨m, hm, harg, hdec⟩ := decode_cases w
  · cases hdec.symm.trans h
  · cases hdec.symm.trans h
  · cases hdec.symm.trans h
    calc encode (build m (argField w))
        = opcodeOf m ++ argField w := by
          rw [encode, build_mnemonic, argOf_build ((reserved_zero_iff m _).mp harg)]
      _ = opField w ++ argField w := by rw [opcodeOf_of_mnemonicOf hm]
      _ = w := append_fields w

/-- Settles O3: of the three outcomes of the decoder only the last gives a command, built from the two fields of the
word. -/
theorem encodeDecodeAgree : Obligations.EncodeDecodeAgree := fun _ _ => encode_of_decode

/-- Settles O1: the decoder run on each word. -/
theorem decodeReadsSpecWords : Obligations.DecodeReadsSpecWords :=
  ⟨rfl, rfl, rfl, rfl, rfl, rfl, rfl, rfl, rfl, rfl, rfl, rfl⟩

/-! ## The opcode table (30_encoding.md R51) -/

/-- The match value of a command: its opcode, with no `arg` bit. -/
def matchOf (m : Mnemonic) : CmdWord := opcodeOf m ++ (0 : Word)

/-- The mask of a command: the opcode and the reserved `arg` bits. -/
def maskOf (m : Mnemonic) : CmdWord := (0xFF : BitVec 8) ++ ~~~ usedMask m

/-- Two words of fields are equal exactly if both fields are. -/
theorem append_eq_append_iff {op op' : BitVec 8} {arg arg' : Word} :
    (op ++ arg : CmdWord) = op' ++ arg' ↔ op = op' ∧ arg = arg' := by
  constructor
  · intro h
    exact ⟨by simpa using congrArg opField h, by simpa using congrArg argField h⟩
  · rintro ⟨rfl, rfl⟩
    rfl

/-- A masked word is the match value exactly if its opcode is the command's and no reserved bit is set. -/
theorem masked_eq_match_iff (m : Mnemonic) (w : CmdWord) :
    w &&& maskOf m = matchOf m ↔ opField w = opcodeOf m ∧ argField w &&& ~~~ usedMask m = 0 := by
  have hop : opField w &&& 0xFF = opField w := BitVec.and_allOnes
  conv_lhs => rw [← append_fields w]
  rw [maskOf, matchOf, BitVec.and_append, hop, append_eq_append_iff]

/-- A masked word is the match value exactly if it decodes to the command (R51). -/
theorem masked_eq_match_iff_decode (m : Mnemonic) (w : CmdWord) :
    w &&& maskOf m = matchOf m ↔ ∃ i, decode w = .ok i ∧ i.mnemonic = m := by
  rw [masked_eq_match_iff]
  constructor
  · rintro ⟨hop, harg⟩
    refine ⟨build m (argField w), ?_, build_mnemonic m _⟩
    rw [← append_fields w, hop, decode_opcodeOf_append, argField_append, if_pos harg]
  · rintro ⟨i, hdec, rfl⟩
    have hw := encode_of_decode hdec
    rw [← hw, encode, opField_append, argField_append]
    exact ⟨rfl, (reserved_zero_iff _ _).mpr (argOf_lt i)⟩

/-- Settles O5: each row of the table is `(matchOf m, maskOf m, m)`, and a word that two rows match decodes to commands
of both their mnemonics, so they are one row. -/
theorem opcodeTableRowsMatch : Obligations.OpcodeTableRowsMatch := by
  unfold Obligations.OpcodeTableRowsMatch
  intro rows
  have hrows : rows = Machine.allMnemonics.map fun m => (matchOf m, maskOf m, m) := rfl
  rw [hrows, List.pairwise_map]
  refine ⟨fun w => List.forall_mem_map.mpr fun m _ => masked_eq_match_iff_decode m w, ?_⟩
  have hnodup : Machine.allMnemonics.Pairwise (· ≠ ·) := by decide
  refine hnodup.imp fun {m n} hne w => ?_
  rintro ⟨hm, hn⟩
  obtain ⟨i, hi, rfl⟩ := (masked_eq_match_iff_decode m w).mp hm
  obtain ⟨j, hj, rfl⟩ := (masked_eq_match_iff_decode n w).mp hn
  cases hi.symm.trans hj
  exact hne rfl

/-! ## Words written with zeros between the opcode and the operand (30_encoding.md R43, R44) -/

/-- An opcode, zeros and an operand: the operand is widened to the size of `arg`. -/
theorem append_zeros_append {k n : Nat} (op : BitVec 8) (v : BitVec n) :
    op ++ (0 : BitVec k) ++ v = (op ++ v.setWidth (k + n)).cast (Nat.add_assoc ..).symm := by
  rw [BitVec.append_assoc, BitVec.setWidth_eq_append (Nat.le_add_left n k)]
  congr 2

/-- The word of `ROWCTL` written field by field (R44). -/
theorem rowctl_word (width : Byte) (refIn refOut : Bool) :
    (0x10 : BitVec 8) ++ (0 : BitVec 22) ++ BitVec.ofBool refOut ++ BitVec.ofBool refIn ++ width =
      encode (.rowctl width refIn refOut) := by
  calc (0x10 : BitVec 8) ++ (0 : BitVec 22) ++ BitVec.ofBool refOut ++ BitVec.ofBool refIn ++ width
      = (0x10 : BitVec 8) ++ (0 : BitVec 22) ++ ctlBits width refIn refOut := by
        rw [BitVec.append_assoc, BitVec.append_assoc]
        rfl
    _ = encode (.rowctl width refIn refOut) := append_zeros_append 0x10 _

/-- Settles O6: each word of the statement is the encoding of its command. -/
theorem operandsAreLowArgBits : Obligations.OperandsAreLowArgBits := by
  refine ⟨fun width refIn refOut => by rw [rowctl_word, decode_encode], fun v => ?_, fun v => ?_,
    fun v => ?_⟩
  · exact ⟨decode_encode (.rowpoly v), decode_encode (.rowinit v), decode_encode (.rowxor v), decode_encode (.refl32 v),
      decode_encode (.fmt4be v), decode_encode (.fmt4le v)⟩
  · have hword (op : BitVec 8) : op ++ (0 : BitVec 16) ++ v = op ++ v.setWidth 32 := append_zeros_append op v
    simp only [hword]
    exact ⟨decode_encode (.refl16 v), decode_encode (.fmt2be v), decode_encode (.fmt2le v)⟩
  · have hword (op : BitVec 8) : op ++ (0 : BitVec 24) ++ v = op ++ v.setWidth 32 := append_zeros_append op v
    simp only [hword]
    exact ⟨decode_encode (.byte v), decode_encode (.refl8 v), decode_encode (.hexch v), decode_encode (.fmt1be v),
      decode_encode (.fmt1le v)⟩

/-! ## The assembler (30_encoding.md R49) -/

/-- The number in the line of a command, or 0 where there is none, is its operand. -/
theorem listing_operand (i : Instr) : BitVec.ofNat 32 ((listing i).operand.getD 0) = argOf i := by
  unfold listing
  split
  · have harg := argOf_lt i
    rw [‹i.mnemonic.usedBits = 0›] at harg
    exact (eq_zero_of_lt_one harg).symm
  · exact (BitVec.ofNat_toNat ..).trans (BitVec.setWidth_eq _)

theorem assemble_listing (i : Instr) : assemble (listing i) = some i := by
  have hmnemonic : (listing i).mnemonic = i.mnemonic := rfl
  rw [assemble, if_pos (listing_wellFormed i), listing_operand, hmnemonic, build_argOf]

/-- The two checks of R49 in one: no operand where no bit is used, else one that fits. -/
theorem asmLine_wellFormed_iff (l : AsmLine) : l.wellFormed = true ↔
    (l.mnemonic.usedBits = 0 ∧ l.operand = none) ∨
      (l.mnemonic.usedBits ≠ 0 ∧ ∃ v, l.operand = some v ∧ v < 2 ^ l.mnemonic.usedBits) := by
  unfold AsmLine.wellFormed AsmLine.operandPresence AsmLine.operandFits
  cases l.operand with
  | none => simp
  | some v => simp

theorem assemble_eq_none_iff (l : AsmLine) : assemble l = none ↔ ¬ l.wellFormed = true := by
  unfold assemble
  split <;> simp [*]

/-- Settles O8: the line of a command is well-formed and holds its operand, and the assembler refuses exactly the lines
that are not well-formed. -/
theorem assemblerRejectsWhatDoesNotFit : Obligations.AssemblerRejectsWhatDoesNotFit :=
  ⟨assemble_listing, fun l => (assemble_eq_none_iff l).trans (not_congr (asmLine_wellFormed_iff l))⟩

end Sys2Proof
end

section
/-! PROOF. The laws of the reflector (spec 41_reflector.md R70, R71), all read off the bits of a reflection. -/

namespace Sys2Proof.Machine

open Sys2Proof

/-! ## Values within a width -/

/-- A value within the width has no bit at or above it. -/
theorem getLsbD_of_fits {w : Width} {v : Word} (hv : v.toNat < 2 ^ w.bits) {j : Nat} (hj : w.bits ≤ j) :
    v.getLsbD j = false :=
  (BitVec.testBit_toNat v).symm.trans (Nat.testBit_lt_two_pow (hv.trans_le (Nat.pow_le_pow_right (by decide) hj)))

/-- Two values within the width are equal if their bits below it are. -/
theorem eq_of_bits_below {w : Width} {u v : Word} (hu : u.toNat < 2 ^ w.bits) (hv : v.toNat < 2 ^ w.bits)
    (h : ∀ j, j < w.bits → u.getLsbD j = v.getLsbD j) : u = v := by
  refine BitVec.eq_of_getLsbD_eq fun j _ => ?_
  by_cases hj : j < w.bits
  · exact h j hj
  · rw [getLsbD_of_fits hu (Nat.not_lt.mp hj), getLsbD_of_fits hv (Nat.not_lt.mp hj)]

theorem zero_fits (w : Width) : (0 : Word).toNat < 2 ^ w.bits := Nat.two_pow_pos _

theorem mask_fits (w : Width) : (mask w).toNat < 2 ^ w.bits := by
  rw [mask_toNat]
  exact Nat.sub_one_lt (Nat.two_pow_pos _).ne'

theorem xor_fits {w : Width} {u v : Word} (hu : u.toNat < 2 ^ w.bits) (hv : v.toNat < 2 ^ w.bits) :
    (u ^^^ v).toNat < 2 ^ w.bits := by
  rw [BitVec.toNat_xor]
  exact Nat.xor_lt_two_pow hu hv

theorem shiftRight_fits {w : Width} {v : Word} (hv : v.toNat < 2 ^ w.bits) (n : Nat) :
    (v >>> n).toNat < 2 ^ w.bits := by
  rw [BitVec.toNat_ushiftRight]
  exact (Nat.shiftRight_le _ _).trans_lt hv

theorem and_mask_fits (w : Width) (v : Word) : (v &&& mask w).toNat < 2 ^ w.bits := by
  rw [BitVec.toNat_and]
  exact Nat.and_lt_two_pow _ (mask_fits w)

/-! ## The bits of a reflection -/

/-- Bit `j` of a reflection is the mirrored bit of the value (R70, read from the result). -/
theorem reflect_bit (v : Word) (w : Width) {j : Nat} (hj : j < w.bits) :
    (reflect v w).getLsbD j = v.getLsbD (w.bits - 1 - j) := by
  have hmirror : w.bits - 1 - (w.bits - 1 - j) = j := by omega
  rw [← reflect_getLsbD v w (i := w.bits - 1 - j) (by omega), hmirror]

/-- Settles O20: the bits of a reflection are those the loop has set, none of them above the width. -/
theorem reflectReversesBits : Obligations.ReflectReversesBits :=
  fun v w => ⟨fun _ hi => reflect_getLsbD v w hi, reflect_lt v w⟩

/-- R71 item 1. -/
theorem reflect_reflect {w : Width} {v : Word} (hv : v.toNat < 2 ^ w.bits) : reflect (reflect v w) w = v := by
  refine eq_of_bits_below (reflect_lt _ w) hv fun j hj => ?_
  rw [reflect_bit _ w hj, reflect_getLsbD v w hj]

theorem reflect_zero (w : Width) : reflect 0 w = 0 := by
  refine eq_of_bits_below (reflect_lt _ w) (zero_fits w) fun j hj => ?_
  rw [reflect_bit _ w hj]
  simp

/-- R71 item 3. -/
theorem reflect_xor (u v : Word) (w : Width) : reflect (u ^^^ v) w = reflect u w ^^^ reflect v w := by
  refine eq_of_bits_below (reflect_lt _ w) (xor_fits (reflect_lt _ w) (reflect_lt _ w)) fun j hj => ?_
  simp only [BitVec.getLsbD_xor, reflect_bit _ w hj]

theorem reflect_mask (w : Width) : reflect (mask w) w = mask w := by
  refine eq_of_bits_below (reflect_lt _ w) (mask_fits w) fun j hj => ?_
  have hmirror : w.bits - 1 - j < w.bits := by omega
  simp only [reflect_bit _ w hj, mask_getLsbD, hj, hmirror]

/-- The reflection of the single bit `k` is the mirrored bit. -/
theorem reflect_one_shiftLeft {w : Width} {k : Nat} (hk : k < w.bits) :
    reflect ((1 : Word) <<< k) w = (1 : Word) <<< (w.bits - 1 - k) := by
  have hw := w.bits_le
  refine BitVec.eq_of_getLsbD_eq fun j _ => ?_
  rw [one_shiftLeft_getLsbD _ _ (by omega)]
  by_cases hj : j < w.bits
  · rw [reflect_bit _ w hj, one_shiftLeft_getLsbD _ _ (by omega)]
    exact decide_eq_decide.mpr (by omega)
  · rw [getLsbD_of_fits (reflect_lt _ w) (Nat.not_lt.mp hj)]
    exact (decide_eq_false (by omega)).symm

/-- R71 item 4, first half: a right shift of the value is a left shift of its reflection. -/
theorem reflect_shiftRight {w : Width} {v : Word} (hv : v.toNat < 2 ^ w.bits) :
    reflect (v >>> 1) w = (reflect v w <<< 1) &&& mask w := by
  refine eq_of_bits_below (reflect_lt _ w) (and_mask_fits w _) fun j hj => ?_
  have hbit : (reflect v w <<< 1 &&& mask w).getLsbD j = (decide (0 < j) && (reflect v w).getLsbD (j - 1)) := by
    have hword : j < 32 := hj.trans_le w.bits_le
    rw [BitVec.getLsbD_and, BitVec.getLsbD_shiftLeft, mask_getLsbD]
    simp [hword, hj, Nat.pos_iff_ne_zero]
  rw [reflect_bit _ w hj, hbit, BitVec.getLsbD_ushiftRight]
  obtain rfl | hpos := Nat.eq_zero_or_pos j
  · simpa using getLsbD_of_fits hv (by omega)
  · rw [reflect_bit _ w (by omega), show w.bits - 1 - (j - 1) = 1 + (w.bits - 1 - j) by omega]
    simp [hpos]

/-- R71 item 4, second half: a left shift within the width is a right shift of the reflection. It is the first half at
the reflection. -/
theorem reflect_shiftLeft {w : Width} {v : Word} (hv : v.toNat < 2 ^ w.bits) :
    reflect ((v <<< 1) &&& mask w) w = reflect v w >>> 1 := by
  have hmirror := reflect_shiftRight (reflect_lt v w)
  rw [reflect_reflect hv] at hmirror
  rw [← hmirror, reflect_reflect (shiftRight_fits (reflect_lt v w) 1)]

/-- Settles O21: the items in order; the single-bit values are `reflect_one_shiftLeft` at the two ends of the width. -/
theorem reflectorLaws : Obligations.ReflectorLaws := by
  refine ⟨fun _ _ => reflect_reflect, fun w => ⟨reflect_zero w, reflect_mask w, ?_, ?_⟩, reflect_xor,
    fun _ _ hx => ⟨reflect_shiftRight hx, reflect_shiftLeft hx⟩, by decide, by decide⟩
  · have hpos : 0 < w.bits := w.eight_le_bits.trans_lt' (by decide)
    simpa using reflect_one_shiftLeft hpos
  · have htop : w.bits - 1 < w.bits := Nat.sub_one_lt (w.eight_le_bits.trans_lt' (by decide)).ne'
    simpa using reflect_one_shiftLeft htop

end Sys2Proof.Machine
end

section
/-! PROOF. The engine's values and laws (spec 42_engine.md R90, R92, R93): the register stays within the width, the
reflected mode mirrors the other one, and absorption is linear. -/

namespace Sys2Proof.Machine

open Sys2Proof

/-! ## Every value stays within the width (42_engine.md R90) -/

theorem width_mono {w : Width} {k n : Nat} (hk : k ≤ w.bits) (hn : n < 2 ^ k) : n < 2 ^ w.bits :=
  hn.trans_le (Nat.pow_le_pow_right (by decide) hk)

/-- A byte at the bottom of the register (R84). -/
theorem lowByte_fits (w : Width) (b : Byte) : (b.setWidth 32).toNat < 2 ^ w.bits := by
  rw [BitVec.toNat_setWidth_of_le (by decide)]
  exact width_mono w.eight_le_bits b.isLt

/-- A byte at the top of the register, bit by bit (R83). -/
theorem topByte_bit (w : Width) (b : Byte) (j : Nat) :
    (b.setWidth 32 <<< (w.bits - 8)).getLsbD j = (decide (w.bits - 8 ≤ j) && b.getLsbD (j - (w.bits - 8))) := by
  have hw := w.bits_le
  have h8 := w.eight_le_bits
  rw [BitVec.getLsbD_shiftLeft, BitVec.getLsbD_setWidth]
  by_cases hj : j < w.bits
  · have hword : j < 32 := hj.trans_le hw
    have hplace : j - (w.bits - 8) < 32 := by omega
    simp only [hword, hplace, decide_true, Bool.true_and, ← decide_not, Nat.not_lt]
  · simp [BitVec.getLsbD_of_ge b _ (show 8 ≤ j - (w.bits - 8) by omega)]

theorem topByte_fits (w : Width) (b : Byte) : (b.setWidth 32 <<< (w.bits - 8)).toNat < 2 ^ w.bits := by
  have h8 := w.eight_le_bits
  refine Nat.lt_pow_two_of_testBit _ fun j hj => ?_
  rw [BitVec.testBit_toNat, topByte_bit, BitVec.getLsbD_of_ge b _ (by omega), Bool.and_false]

theorem shiftSteps_stepMSB_fits {w : Width} {poly r : Word} (hr : r.toNat < 2 ^ w.bits) (hp : poly.toNat < 2 ^ w.bits)
    (k : Nat) : (shiftSteps (stepMSB poly w) k r).toNat < 2 ^ w.bits :=
  shiftSteps_keeps (fun q => q.toNat < 2 ^ w.bits) _ (fun _ hq => stepMSB_lt hq hp) k r hr

theorem shiftSteps_stepLSB_fits {w : Width} {rpoly r : Word} (hr : r.toNat < 2 ^ w.bits)
    (hp : rpoly.toNat < 2 ^ w.bits) (k : Nat) : (shiftSteps (stepLSB rpoly) k r).toNat < 2 ^ w.bits :=
  shiftSteps_keeps (fun q => q.toNat < 2 ^ w.bits) _ (fun _ hq => stepLSB_lt hq hp) k r hr

theorem absorbMSB_fits {w : Width} {poly r : Word} (hr : r.toNat < 2 ^ w.bits) (hp : poly.toNat < 2 ^ w.bits)
    (b : Byte) : (absorbMSB r b poly w).toNat < 2 ^ w.bits :=
  shiftSteps_stepMSB_fits (xor_fits hr (topByte_fits w b)) hp 8

theorem absorbLSB_fits {w : Width} {rpoly r : Word} (hr : r.toNat < 2 ^ w.bits) (hp : rpoly.toNat < 2 ^ w.bits)
    (b : Byte) : (absorbLSB r b rpoly).toNat < 2 ^ w.bits :=
  shiftSteps_stepLSB_fits (xor_fits hr (lowByte_fits w b)) hp 8

/-- Absorbing a byte keeps the register within the width, in either mode (R90). -/
theorem absorb_fits {w : Width} {poly rpoly r : Word} (hr : r.toNat < 2 ^ w.bits) (hp : poly.toNat < 2 ^ w.bits)
    (hq : rpoly.toNat < 2 ^ w.bits) (refIn : Bool) (b : Byte) :
    (absorb w poly rpoly refIn r b).toNat < 2 ^ w.bits := by
  cases refIn with
  | false => exact absorbMSB_fits hr hp b
  | true => exact absorbLSB_fits hr hq b

/-- Settles O28: the byte fits in both places, and what one step keeps all steps keep. -/
theorem engineStaysInWidth : Obligations.EngineStaysInWidth :=
  fun w _ _ b hr hp =>
    ⟨shiftSteps_stepMSB_fits (xor_fits hr (topByte_fits w b)) hp,
      shiftSteps_stepLSB_fits (xor_fits hr (lowByte_fits w b)) hp, absorbMSB_fits hr hp b, absorbLSB_fits hr hp b⟩

/-! ## The reflected mode is the mirror image (42_engine.md R92) -/

/-- One step of the reflected mode is the mirror image of one step of the other. -/
theorem stepLSB_reflect {w : Width} {r : Word} (hr : r.toNat < 2 ^ w.bits) (poly : Word) :
    stepLSB (reflect poly w) (reflect r w) = reflect (stepMSB poly w r) w := by
  have hbottom : (reflect r w).getLsbD 0 = r.getLsbD (w.bits - 1) :=
    reflect_bit r w (w.eight_le_bits.trans_lt' (by decide))
  rw [stepLSB_eq_xor, stepMSB_eq_xor, reflect_xor, reflect_shiftLeft hr, hbottom]
  split
  · rfl
  · rw [reflect_zero]

/-- A reflected byte at the top of the register is the mirror image of the byte at the bottom. -/
theorem reflect_topByte (w : Width) (b : Byte) :
    reflect ((reflectByte b).setWidth 32 <<< (w.bits - 8)) w = b.setWidth 32 := by
  have h8 := w.eight_le_bits
  refine eq_of_bits_below (reflect_lt _ w) (lowByte_fits w b) fun j hj => ?_
  have hword : j < 32 := hj.trans_le w.bits_le
  rw [reflect_bit _ w hj, topByte_bit, BitVec.getLsbD_setWidth]
  by_cases hlow : j < 8
  · have hmirror : w.bits - 1 - j - (w.bits - 8) = Width.w8.bits - 1 - j := by
      show _ = 8 - 1 - j
      omega
    have htop : w.bits - 8 ≤ w.bits - 1 - j := by omega
    have hbyte : Width.w8.bits - 1 - j < 8 := (Nat.sub_le _ _).trans_lt (by decide)
    rw [hmirror, reflectByte, BitVec.getLsbD_setWidth, reflect_getLsbD _ .w8 hlow, BitVec.getLsbD_setWidth]
    simp only [htop, hbyte, decide_true, Bool.true_and]
  · have hbelow : ¬ w.bits - 8 ≤ w.bits - 1 - j := by omega
    simp only [hbelow, BitVec.getLsbD_of_ge b j (Nat.not_lt.mp hlow), decide_false, Bool.false_and, Bool.and_false]

/-- One byte in the reflected mode is the mirror image of the reflected byte in the other. -/
theorem absorbLSB_reflect {w : Width} {r poly : Word} (hr : r.toNat < 2 ^ w.bits) (hp : poly.toNat < 2 ^ w.bits)
    (b : Byte) :
    absorbLSB (reflect r w) b (reflect poly w) = reflect (absorbMSB r (reflectByte b) poly w) w := by
  have hstart : reflect r w ^^^ b.setWidth 32 = reflect (r ^^^ (reflectByte b).setWidth 32 <<< (w.bits - 8)) w := by
    rw [reflect_xor, reflect_topByte]
  obtain ⟨_, hmirror⟩ := shiftSteps_related (fun u v => v.toNat < 2 ^ w.bits ∧ u = reflect v w)
    (stepLSB (reflect poly w)) (stepMSB poly w)
    (fun u v ⟨hv, hu⟩ => ⟨stepMSB_lt hv hp, hu ▸ stepLSB_reflect hv poly⟩) 8 _ _
    ⟨xor_fits hr (topByte_fits w (reflectByte b)), hstart⟩
  exact hmirror

/-- Settles O29: the shifts and the tested bits are mirrored, and eight mirrored steps follow a mirrored start. -/
theorem reflectedModeMirrorsOneByte : Obligations.ReflectedModeMirrorsOneByte :=
  fun _ _ poly b hr hp => ⟨stepLSB_reflect hr poly, absorbLSB_reflect hr hp b⟩

/-- A message in the reflected mode, from a mirrored register, is the mirror image of the reflected bytes in the
other. -/
theorem absorbAll_reflect {sp : Spec} (hmode : sp.refIn = true) (hp : sp.poly.toNat < 2 ^ sp.w.bits) (data : List Byte)
    {r : Word} (hr : r.toNat < 2 ^ sp.w.bits) :
    absorbAll sp (reflect r sp.w) data =
      reflect (absorbAll { sp with refIn := false } r (data.map reflectByte)) sp.w := by
  induction data generalizing r with
  | nil => rfl
  | cons b data ih =>
    have hbyte : absorb sp.w sp.poly (reflect sp.poly sp.w) sp.refIn (reflect r sp.w) b =
        reflect (absorbMSB r (reflectByte b) sp.poly sp.w) sp.w := by
      rw [absorb_of_reflected hmode, absorbLSB_reflect hr hp]
    have ih' := ih (absorbMSB_fits hr hp (reflectByte b))
    rwa [← hbyte] at ih'

/-- Settles O30: the initial value is the mirror image of its reflection. -/
theorem reflectedModeMirrorsMessages : Obligations.ReflectedModeMirrorsMessages := by
  intro sp data hmode hp hi
  have hmirror := absorbAll_reflect hmode hp data (reflect_lt sp.init sp.w)
  rwa [reflect_reflect hi] at hmirror

/-! ## Absorption is linear (42_engine.md R93 item 3) -/

/-- A function that takes exclusive-or to exclusive-or. -/
def XorLinear (f : Word → Word) : Prop := ∀ u v, f (u ^^^ v) = f u ^^^ f v

/-- A constant that enters by a bit of the argument enters linearly. -/
theorem xorLinear_ite (c : Word) (k : Nat) : XorLinear fun r => if r.getLsbD k then c else 0 := by
  intro u v
  simp only [BitVec.getLsbD_xor]
  cases u.getLsbD k <;> cases v.getLsbD k <;> simp

theorem XorLinear.xor {f g : Word → Word} (hf : XorLinear f) (hg : XorLinear g) : XorLinear fun r => f r ^^^ g r := by
  intro u v
  simp only [hf u v, hg u v]
  ac_rfl

theorem xorLinear_shiftSteps {f : Word → Word} (hf : XorLinear f) (n : Nat) : XorLinear (shiftSteps f n) := by
  intro u v
  induction n generalizing u v with
  | zero => rfl
  | succ n ih => rw [shiftSteps_succ, hf, ih, ← shiftSteps_succ, ← shiftSteps_succ]

theorem xorLinear_and (m : Word) : XorLinear (· &&& m) :=
  fun _ _ => BitVec.eq_of_toNat_eq (by simp only [BitVec.toNat_and, BitVec.toNat_xor, Nat.and_xor_distrib_right])

theorem xorLinear_stepMSB (poly : Word) (w : Width) : XorLinear (stepMSB poly w) := by
  have hshift : XorLinear fun r => r <<< 1 &&& mask w := fun u v => by
    simp only [BitVec.shiftLeft_xor_distrib, xorLinear_and (mask w) (u <<< 1)]
  simpa only [← stepMSB_eq_xor] using hshift.xor (xorLinear_ite poly (w.bits - 1))

theorem xorLinear_stepLSB (rpoly : Word) : XorLinear (stepLSB rpoly) := by
  have hshift : XorLinear fun r => r >>> 1 := fun u v => BitVec.ushiftRight_xor_distrib u v 1
  simpa only [← stepLSB_eq_xor] using hshift.xor (xorLinear_ite rpoly 0)

theorem absorbMSB_xor (w : Width) (poly r r' : Word) (b b' : Byte) :
    absorbMSB (r ^^^ r') (b ^^^ b') poly w = absorbMSB r b poly w ^^^ absorbMSB r' b' poly w := by
  simp only [absorbMSB, ← xorLinear_shiftSteps (xorLinear_stepMSB poly w) 8 _ _, BitVec.setWidth_xor,
    BitVec.shiftLeft_xor_distrib]
  congr 1
  ac_rfl

theorem absorbLSB_xor (rpoly r r' : Word) (b b' : Byte) :
    absorbLSB (r ^^^ r') (b ^^^ b') rpoly = absorbLSB r b rpoly ^^^ absorbLSB r' b' rpoly := by
  simp only [absorbLSB, ← xorLinear_shiftSteps (xorLinear_stepLSB rpoly) 8 _ _, BitVec.setWidth_xor]
  congr 1
  ac_rfl

/-- At width 8 the top eight bits are the whole register (R83). -/
theorem absorbMSB_w8 (poly r : Word) (b : Byte) :
    absorbMSB r b poly .w8 = absorbMSB (r ^^^ b.setWidth 32) 0 poly .w8 := by
  simp [absorbMSB, Width.bits]

/-- Settles O31: both places of the byte and both steps are linear. -/
theorem absorptionIsLinear : Obligations.AbsorptionIsLinear :=
  ⟨fun w poly r r' b b' _ _ _ => ⟨absorbMSB_xor w poly r r' b b', absorbLSB_xor poly r r' b b'⟩, absorbMSB_w8⟩

end Sys2Proof.Machine
end

section
/-! PROOF. The non-reflected mode as polynomial division over GF(2) (spec 00_scope.md R9, 42_engine.md R81, R83, R90):
in the ring of polynomials modulo the divisor, a shift step multiplies by `X`. -/

namespace Sys2Proof.Machine

open Sys2Proof Polynomial

/-! ## Numbers as polynomials over GF(2) -/

/-- The polynomial over GF(2) whose coefficients are the low `k` bits of a number. -/
noncomputable def bitsPoly (k v : Nat) : (ZMod 2)[X] := ∑ i ∈ Finset.range k, if v.testBit i then X ^ i else 0

theorem bitsPoly_coeff (k v n : Nat) : (bitsPoly k v).coeff n = if n < k ∧ v.testBit n then 1 else 0 := by
  have hterm (i : Nat) : (if v.testBit i then X ^ i else 0 : (ZMod 2)[X]).coeff n =
      if n = i then (if v.testBit n then 1 else 0) else 0 := by
    by_cases hi : n = i
    · subst hi
      split <;> simp
    · split <;> simp [coeff_X_pow, hi]
  simp only [bitsPoly, finsetSum_coeff, hterm, Finset.sum_ite_eq, Finset.mem_range, ite_and]

theorem bitsPoly_xor (k u v : Nat) : bitsPoly k (u ^^^ v) = bitsPoly k u + bitsPoly k v := by
  have htwo : (1 : ZMod 2) + 1 = 0 := by decide
  ext n
  rw [coeff_add, bitsPoly_coeff, bitsPoly_coeff, bitsPoly_coeff, Nat.testBit_xor]
  by_cases hn : n < k
  · cases u.testBit n <;> cases v.testBit n <;> simp [hn, htwo]
  · simp [hn]

theorem bitsPoly_zero (k : Nat) : bitsPoly k 0 = 0 := by simp [bitsPoly]

/-- A number below `2^w` is a polynomial of degree below `w`. -/
theorem bitsPoly_degree_lt {k v w : Nat} (hv : v < 2 ^ w) : (bitsPoly k v).degree < w := by
  rw [degree_lt_iff_coeff_zero]
  intro n hn
  have hbit : v.testBit n = false := Nat.testBit_lt_two_pow (hv.trans_le (Nat.pow_le_pow_right (by decide) hn))
  simp [bitsPoly_coeff, hbit]

/-! ## One step, one byte (42_engine.md R81, R83) -/

/-- The polynomial of a word. -/
noncomputable def wordPoly (v : Word) : (ZMod 2)[X] := bitsPoly 32 v.toNat

theorem wordPoly_xor (u v : Word) : wordPoly (u ^^^ v) = wordPoly u + wordPoly v := by
  rw [wordPoly, BitVec.toNat_xor, bitsPoly_xor, wordPoly, wordPoly]

theorem wordPoly_coeff (v : Word) (n : Nat) : (wordPoly v).coeff n = if v.getLsbD n then 1 else 0 := by
  rw [wordPoly, bitsPoly_coeff, BitVec.testBit_toNat]
  by_cases hn : n < 32
  · simp [hn]
  · simp [hn, BitVec.getLsbD_of_ge v n (Nat.not_lt.mp hn)]

/-- Shifting within the width multiplies by `X` and takes off the top bit. -/
theorem wordPoly_mul_X {w : Width} {r : Word} (hr : r.toNat < 2 ^ w.bits) :
    wordPoly r * X = wordPoly (r <<< 1 &&& mask w) + if r.getLsbD (w.bits - 1) then X ^ w.bits else 0 := by
  have h8 := w.eight_le_bits
  ext n
  have hshift : (r <<< 1 &&& mask w).getLsbD n = (decide (0 < n ∧ n < w.bits) && r.getLsbD (n - 1)) := by
    rw [BitVec.getLsbD_and, BitVec.getLsbD_shiftLeft, mask_getLsbD]
    by_cases hn : n < w.bits
    · have hword : n < 32 := hn.trans_le w.bits_le
      simp [hword, hn, Nat.pos_iff_ne_zero]
    · simp [hn]
  have htop : (if r.getLsbD (w.bits - 1) then X ^ w.bits else 0 : (ZMod 2)[X]).coeff n =
      if n = w.bits ∧ r.getLsbD (w.bits - 1) then 1 else 0 := by
    split <;> simp [*, coeff_X_pow]
  rw [coeff_add, htop, wordPoly_coeff, hshift]
  cases n with
  | zero => simp [show 0 ≠ w.bits by omega]
  | succ n =>
    rw [coeff_mul_X, wordPoly_coeff]
    obtain hlt | heq | hgt := Nat.lt_trichotomy (n + 1) w.bits
    · simp [hlt, hlt.ne]
    · simp [← heq]
    · simp [getLsbD_of_fits hr (show w.bits ≤ n by omega), hgt.not_gt, hgt.ne']

/-- The divisor of the non-reflected mode (42_engine.md R81). -/
noncomputable def divisor (w : Width) (poly : Word) : (ZMod 2)[X] := X ^ w.bits + wordPoly poly

theorem wordPoly_degree_lt {w : Width} {v : Word} (hv : v.toNat < 2 ^ w.bits) : (wordPoly v).degree < w.bits :=
  bitsPoly_degree_lt hv

theorem divisor_monic {w : Width} {poly : Word} (hp : poly.toNat < 2 ^ w.bits) : (divisor w poly).Monic :=
  monic_X_pow_add (wordPoly_degree_lt hp)

theorem divisor_degree {w : Width} {poly : Word} (hp : poly.toNat < 2 ^ w.bits) :
    (divisor w poly).degree = w.bits := by
  rw [divisor, degree_add_eq_left_of_degree_lt (by simpa using wordPoly_degree_lt hp), degree_X_pow]

/-- A polynomial modulo the divisor. -/
noncomputable abbrev residue (w : Width) (poly : Word) : (ZMod 2)[X] →+* AdjoinRoot (divisor w poly) :=
  AdjoinRoot.mk (divisor w poly)

/-- A shift step multiplies by `X` modulo the divisor: where the top bit falls off, the divisor is subtracted (R81). -/
theorem residue_stepMSB {w : Width} {poly r : Word} (hr : r.toNat < 2 ^ w.bits) :
    residue w poly (wordPoly (stepMSB poly w r)) = residue w poly (wordPoly r * X) := by
  rw [AdjoinRoot.mk_eq_mk, wordPoly_mul_X hr, stepMSB_eq_xor, wordPoly_xor]
  split
  · rw [add_sub_add_left_eq_sub, CharTwo.sub_eq_add, add_comm]
    exact dvd_rfl
  · simp [wordPoly, bitsPoly_zero]

theorem residue_shiftSteps {w : Width} {poly : Word} (hp : poly.toNat < 2 ^ w.bits) (n : Nat) {r : Word}
    (hr : r.toNat < 2 ^ w.bits) :
    residue w poly (wordPoly (shiftSteps (stepMSB poly w) n r)) = residue w poly (wordPoly r * X ^ n) := by
  induction n generalizing r with
  | zero => simp [shiftSteps_zero]
  | succ n ih =>
    rw [shiftSteps_succ, ih (stepMSB_lt hr hp), map_mul, residue_stepMSB hr, ← map_mul, mul_assoc, ← pow_succ']

/-- A byte at the top of the register is the byte's polynomial times a power of `X`. -/
theorem wordPoly_topByte (w : Width) (b : Byte) :
    wordPoly (b.setWidth 32 <<< (w.bits - 8)) = bitsPoly 8 b.toNat * X ^ (w.bits - 8) := by
  ext n
  rw [wordPoly_coeff, topByte_bit, coeff_mul_X_pow', bitsPoly_coeff, BitVec.testBit_toNat]
  by_cases hn : w.bits - 8 ≤ n
  · by_cases hbit : n - (w.bits - 8) < 8
    · simp [hn, hbit]
    · simp [hn, hbit, BitVec.getLsbD_of_ge b _ (Nat.not_lt.mp hbit)]
  · simp [hn]

/-- Absorbing a byte shifts the register by eight bits and appends the byte (R83). -/
theorem residue_absorbMSB {w : Width} {poly r : Word} (hr : r.toNat < 2 ^ w.bits) (hp : poly.toNat < 2 ^ w.bits)
    (b : Byte) :
    residue w poly (wordPoly (absorbMSB r b poly w)) =
      residue w poly (wordPoly r * X ^ 8 + bitsPoly 8 b.toNat * X ^ w.bits) := by
  have hbits : w.bits = w.bits - 8 + 8 := (Nat.sub_add_cancel w.eight_le_bits).symm
  rw [absorbMSB, residue_shiftSteps hp 8 (xor_fits hr (topByte_fits w b)), wordPoly_xor, wordPoly_topByte, add_mul,
    mul_assoc, ← pow_add, ← hbits]

/-! ## A message (42_engine.md R88) -/

/-- The polynomial of a message, its first byte the most significant. -/
noncomputable def messagePoly (data : List Byte) : (ZMod 2)[X] :=
  data.foldl (fun m d => m * X ^ 8 + bitsPoly 8 d.toNat) 0

theorem messagePoly_append_one (data : List Byte) (b : Byte) :
    messagePoly (data ++ [b]) = messagePoly data * X ^ 8 + bitsPoly 8 b.toNat := by
  simp only [messagePoly, List.foldl_append, List.foldl_cons, List.foldl_nil]

theorem absorbAll_fits {sp : Spec} {r : Word} (hp : sp.poly.toNat < 2 ^ sp.w.bits) (hr : r.toNat < 2 ^ sp.w.bits)
    (data : List Byte) : (absorbAll sp r data).toNat < 2 ^ sp.w.bits := by
  induction data using List.reverseRecOn with
  | nil => exact hr
  | append_singleton data b ih =>
    rw [absorbAll_append_one]
    exact absorb_fits ih hp (reflect_lt _ _) _ b

/-- The register after a message, modulo the divisor. -/
theorem residue_absorbAll {sp : Spec} (hmode : sp.refIn = false) (hp : sp.poly.toNat < 2 ^ sp.w.bits) {r : Word}
    (hr : r.toNat < 2 ^ sp.w.bits) (data : List Byte) :
    residue sp.w sp.poly (wordPoly (absorbAll sp r data)) =
      residue sp.w sp.poly (wordPoly r * X ^ (8 * data.length) + messagePoly data * X ^ sp.w.bits) := by
  induction data using List.reverseRecOn with
  | nil => simp [absorbAll, messagePoly]
  | append_singleton data b ih =>
    rw [absorbAll_append_one, absorb_of_nonreflected hmode, residue_absorbMSB (absorbAll_fits hp hr data) hp, map_add,
      map_mul, ih, ← map_mul, ← map_add, messagePoly_append_one, List.length_append, List.length_singleton]
    exact congrArg _ (by ring)

/-- Settles O32: the register has a degree below the divisor's, so it is the remainder of what it is congruent to. -/
theorem registerIsPolynomialRemainder : Obligations.RegisterIsPolynomialRemainder := by
  unfold Obligations.RegisterIsPolynomialRemainder
  intro toPoly sp data hmode hp hi
  have hdegree : (wordPoly (absorbAll sp sp.init data)).degree < (divisor sp.w sp.poly).degree :=
    (wordPoly_degree_lt (absorbAll_fits hp hi data)).trans_eq (divisor_degree hp).symm
  calc wordPoly (absorbAll sp sp.init data)
      = wordPoly (absorbAll sp sp.init data) %ₘ divisor sp.w sp.poly :=
        ((modByMonic_eq_self_iff (divisor_monic hp)).mpr hdegree).symm
    _ = (wordPoly sp.init * X ^ (8 * data.length) + messagePoly data * X ^ sp.w.bits) %ₘ divisor sp.w sp.poly :=
        modByMonic_eq_of_dvd_sub (divisor_monic hp) (AdjoinRoot.mk_eq_mk.mp (residue_absorbAll hmode hp hi data))

end Sys2Proof.Machine
end

section
/-! PROOF. The step and the reset input (spec 20_memory.md R36, 30_encoding.md R47, 60_exceptions.md R146,
70_reset_and_hazards.md R170 to R172, R179): what a step does with each input, and its outcomes for the registers. -/

namespace Sys2Proof.Machine

open Sys2Proof

/-! ## One step for each input -/

theorem step_of_no_input {s : State} (hport : s.port = []) : step s = .next s := by
  simp only [step, hport]

/-- A command under reset is not taken (R170). -/
theorem step_command_in_reset {s : State} {w : CmdWord} {rest : List PortEvent} (hport : s.port = .command w :: rest)
    (hreset : s.inReset = true) : step s = .next (s.takeEvent rest) := by
  simp only [step, hport, runEvent, takeEvent_inReset, hreset]

theorem step_assertReset {s : State} {c : Option CmdWord} {rest : List PortEvent}
    (hport : s.port = .assertReset c :: rest) : step s = .next (s.takeEvent rest).enterReset := by
  simp only [step, hport, runEvent]

theorem step_releaseReset {s : State} {rest : List PortEvent} (hport : s.port = .releaseReset :: rest) :
    step s = .next (s.takeEvent rest).leaveReset := by
  simp only [step, hport, runEvent]

/-- A word that decodes to a command runs it, at the state with the input taken. -/
theorem step_exec {s : State} {w : CmdWord} {rest : List PortEvent} {i : Instr} (hport : s.port = .command w :: rest)
    (hreset : s.inReset = false) (hdec : decode w = .ok i) : step s = exec i (s.takeEvent rest) :=
  (step_command hport hreset).trans (runWord_of_decode_ok hdec _)

theorem runWord_total (w : CmdWord) (s : State) : ∃ t, runWord w s = .next t := by
  obtain ⟨i, _, hrun⟩ | ⟨_, _, hrun⟩ := runWord_cases w s
  · rw [hrun]
    exact exec_total i s
  · exact ⟨_, hrun⟩

/-- No step faults and none is refused (R47, R179). -/
theorem step_total (s : State) : ∃ t, step s = .next t := by
  cases hport : s.port with
  | nil => exact ⟨s, step_of_no_input hport⟩
  | cons e rest =>
    cases e with
    | command w =>
      cases hreset : s.inReset with
      | true => exact ⟨_, step_command_in_reset hport hreset⟩
      | false =>
        rw [step_command hport hreset]
        exact runWord_total w _
    | assertReset c => exact ⟨_, step_assertReset hport⟩
    | releaseReset => exact ⟨_, step_releaseReset hport⟩

/-- Settles O9: `step` takes the input and the decoder names the command. -/
theorem stepRunsDecodedCommand : Obligations.StepRunsDecodedCommand :=
  fun _ _ _ _ hport hreset hdec => step_exec hport hreset hdec

/-- Settles O10: a word that decodes to no command is one the decoder rejects. -/
theorem stepAnswersIllegalWord : Obligations.StepAnswersIllegalWord := by
  intro s w rest hport hreset hillegal
  rw [step_command hport hreset]
  cases hdec : decode w with
  | ok i => exact absurd hdec (hillegal i)
  | error e => exact runWord_of_decode_error hdec _

/-- Settles O11: the three inputs of reset, each by its equation of `step`. -/
theorem resetInputClearsTheBlock : Obligations.ResetInputClearsTheBlock := by
  refine ⟨fun s c rest hport => ?_, fun s w rest hport hreset => ?_, fun s rest hport hreset => ?_⟩
  · exact ⟨_, step_assertReset hport, rfl, rfl, rfl⟩
  · exact step_command_in_reset hport hreset
  · have hin : (s.takeEvent rest).inReset = true := hreset
    rw [step_releaseReset hport, leaveReset_of_inReset hin]
    exact ⟨_, rfl, rfl, rfl, rfl, rfl, rfl, rfl, rfl, rfl, rfl, rfl, rfl⟩

/-- Settles O12: the fields of `State.reset` as R23 gives them. -/
theorem resetStateHoldsSpecValues : Obligations.ResetStateHoldsSpecValues :=
  ⟨rfl, rfl, rfl, rfl, rfl, rfl, rfl, rfl⟩

/-- Settles O13: after reset no computation is open, no spec is loaded, and the staged width 0 is none. -/
theorem bootOrderIsEnforced : Obligations.BootOrderIsEnforced :=
  ⟨execLdspec_of_illFormed rfl rfl, exec_start_of_unloaded rfl, exec_byte_of_idle rfl, exec_final_of_idle rfl⟩

/-- Settles O15: every input has an equation of `step`. -/
theorem stepNeverStops : Obligations.StepNeverStops := ⟨step_total, fun _ => step_of_no_input⟩

/-- Settles O43: the table of codes, which the host reads back. -/
theorem statusCodes : Obligations.StatusCodes :=
  ⟨rfl, rfl, rfl, rfl, rfl, rfl, rfl, fun e => leftInverse_errorOfCode_statusOf (some e)⟩

/-! ## What a step can do -/

/-- The next input resets the registers: reset is asserted, or it is released while asserted (R170). -/
def ResetTaken (s : State) : Prop :=
  (∃ c rest, s.port = .assertReset c :: rest) ∨ (∃ rest, s.port = .releaseReset :: rest ∧ s.inReset = true)

/-- A step keeps every register, or runs one decoded command, or takes a reset. -/
theorem step_outcome {s t : State} (h : step s = .next t) :
    (∃ rest rs, t = { s with port := rest, responses := rs }) ∨
    (∃ w rest i, s.port = .command w :: rest ∧ s.inReset = false ∧ decode w = .ok i ∧
      exec i (s.takeEvent rest) = .next t) ∨
    (ResetTaken s ∧ t = { State.reset with inReset := t.inReset, port := t.port, responses := t.responses }) := by
  obtain ⟨_, rfl⟩ | ⟨w, rest, _, _, rfl⟩ | ⟨w, rest, hport, hreset, hrun⟩ | ⟨c, rest, hport, rfl⟩ |
    ⟨rest, hport, rfl⟩ := step_cases h
  · exact .inl ⟨_, _, rfl⟩
  · exact .inl ⟨_, _, rfl⟩
  · cases hdec : decode w with
    | ok i => exact .inr (.inl ⟨w, rest, i, hport, hreset, hdec, (runWord_of_decode_ok hdec _).symm.trans hrun⟩)
    | error e =>
      cases (runWord_of_decode_error hdec _).symm.trans hrun
      exact .inl ⟨_, _, rfl⟩
  · exact .inr (.inr ⟨.inl ⟨c, rest, hport⟩, rfl⟩)
  · by_cases hreset : s.inReset = true
    · have hin : (s.takeEvent rest).inReset = true := hreset
      rw [leaveReset_of_inReset hin]
      exact .inr (.inr ⟨.inr ⟨rest, hport, hreset⟩, rfl⟩)
    · have hin : (s.takeEvent rest).inReset = false := Bool.eq_false_iff.mpr hreset
      rw [leaveReset_of_not_inReset hin]
      exact .inl ⟨_, _, rfl⟩

end Sys2Proof.Machine
end

section
/-! PROOF. The units of the block (spec 10_state.md R10, R13, R15, R22, 20_memory.md R36, R37, 60_exceptions.md R149):
the registers each command can write and those it can read, and the flags over a whole step. -/

namespace Sys2Proof.Machine

open Sys2Proof

/-! ## What each unit writes (20_memory.md R37) -/

theorem exec_parser_frame {i : Instr} {s t : State} (hi : i.isParser = true) (h : exec i s = .next t) :
    t = { s with hnib := t.hnib, hhalf := t.hhalf, hfail := t.hfail, responses := t.responses } := by
  cases i with
  | hexch c =>
    obtain ⟨_, rfl⟩ | ⟨_, _, rfl⟩ | ⟨_, _, _, rfl⟩ | ⟨_, _, _, _, _, rfl⟩ | ⟨_, _, _, _, _, rfl⟩ :=
      execHexch_cases h <;> rfl
  | hexend => obtain ⟨_, rfl⟩ | ⟨_, _, rfl⟩ := execHexend_cases h <;> rfl
  | _ => cases hi

theorem exec_staging_frame {i : Instr} {s t : State} (hi : i.isStaging = true) (h : exec i s = .next t) :
    t = { s with
      rowCtrl := t.rowCtrl, rowPoly := t.rowPoly, rowInit := t.rowInit, rowXor := t.rowXor
      responses := t.responses } := by
  cases i with
  | rowctl _ _ _ | rowpoly _ | rowinit _ | rowxor _ =>
    cases h
    rfl
  | _ => cases hi

theorem exec_ldspec_frame {s t : State} (h : exec .ldspec s = .next t) :
    t = { s with
      specv := t.specv, w := t.w, poly := t.poly, init := t.init, xorOut := t.xorOut, refIn := t.refIn
      refOut := t.refOut, rpoly := t.rpoly, responses := t.responses } := by
  obtain ⟨_, rfl⟩ | ⟨_, _, rfl⟩ | ⟨_, _, _, _, rfl⟩ | ⟨_, _, _, _, rfl⟩ := execLdspec_cases h <;> rfl

theorem exec_engine_frame {i : Instr} {s t : State} (hi : i.isEngine = true) (h : exec i s = .next t) :
    t = { s with reg := t.reg, run := t.run, responses := t.responses } := by
  cases i with
  | start => obtain ⟨_, rfl⟩ | ⟨_, rfl⟩ := execStart_cases h <;> rfl
  | byte b => obtain ⟨_, rfl⟩ | ⟨_, rfl⟩ := execByte_cases h <;> rfl
  | final => obtain ⟨_, rfl⟩ | ⟨_, rfl⟩ := execFinal_cases h <;> rfl
  | _ => cases hi

theorem exec_stateless_frame {i : Instr} {s t : State} (hi : i.isStateless = true) (h : exec i s = .next t) :
    t = { s with responses := t.responses } := by
  cases i with
  | refl8 _ | refl16 _ | refl32 _ | fmt1be _ | fmt1le _ | fmt2be _ | fmt2le _ | fmt4be _ | fmt4le _ =>
    cases h
    rfl
  | _ => cases hi

/-- Settles O47: each command belongs to one unit, and writes within that unit's frame. -/
theorem eachUnitWritesOnlyItsRegisters : Obligations.EachUnitWritesOnlyItsRegisters := by
  intro i s t h
  refine ⟨fun hi => exec_parser_frame hi h, fun hi => exec_staging_frame hi h, ?_, fun hi => exec_engine_frame hi h,
    fun hi => exec_stateless_frame hi h⟩
  rintro rfl
  exact exec_ldspec_frame h

/-! ## What each unit reads (20_memory.md R37) -/

/-- The state with other parser registers and other inputs to come. -/
def State.withParser (hnib : BitVec 4) (hhalf hfail : Bool) (port : List PortEvent) (s : State) : State :=
  { s with hnib := hnib, hhalf := hhalf, hfail := hfail, port := port }

/-- A command outside the parser neither reads nor writes the parser's registers, nor the port. -/
theorem exec_withParser {i : Instr} {s t : State} (hi : i.isParser = false) (h : exec i s = .next t)
    (hnib : BitVec 4) (hhalf hfail : Bool) (port : List PortEvent) :
    exec i (s.withParser hnib hhalf hfail port) = .next (t.withParser hnib hhalf hfail port) := by
  cases i with
  | hexch _ | hexend => cases hi
  | ldspec =>
    obtain ⟨hrun, rfl⟩ | ⟨hidle, hrow, rfl⟩ | ⟨w, hidle, hrow, hflags, rfl⟩ | ⟨w, hidle, hrow, hflags, rfl⟩ :=
      execLdspec_cases h
    · exact execLdspec_of_run (s := s.withParser hnib hhalf hfail port) hrun
    · exact execLdspec_of_illFormed (s := s.withParser hnib hhalf hfail port) hidle hrow
    · exact (execLdspec_of_wellFormed (s := s.withParser hnib hhalf hfail port) hidle hrow).trans (if_neg hflags)
    · exact (execLdspec_of_wellFormed (s := s.withParser hnib hhalf hfail port) hidle hrow).trans (if_pos hflags)
  | start =>
    obtain ⟨hspec, rfl⟩ | ⟨hspec, rfl⟩ := execStart_cases h
    · exact exec_start_of_loaded (s := s.withParser hnib hhalf hfail port) hspec
    · exact exec_start_of_unloaded (s := s.withParser hnib hhalf hfail port) hspec
  | byte b =>
    obtain ⟨hrun, rfl⟩ | ⟨hrun, rfl⟩ := execByte_cases h
    · exact exec_byte_of_running (s := s.withParser hnib hhalf hfail port) hrun b
    · exact exec_byte_of_idle (s := s.withParser hnib hhalf hfail port) hrun b
  | final =>
    obtain ⟨hrun, rfl⟩ | ⟨hrun, rfl⟩ := execFinal_cases h
    · exact exec_final_of_running (s := s.withParser hnib hhalf hfail port) hrun
    · exact exec_final_of_idle (s := s.withParser hnib hhalf hfail port) hrun
  | _ =>
    cases h
    rfl

/-- What a command outside the parser leaves alone. -/
theorem exec_keeps_parser {i : Instr} {s t : State} (hi : i.isParser = false) (h : exec i s = .next t) :
    t.hnib = s.hnib ∧ t.hhalf = s.hhalf ∧ t.hfail = s.hfail := by
  have hsame : t = t.withParser s.hnib s.hhalf s.hfail s.port :=
    Host.Outcome.next.inj (h.symm.trans (exec_withParser hi h s.hnib s.hhalf s.hfail s.port))
  exact ⟨(congrArg State.hnib hsame :), (congrArg State.hhalf hsame :), (congrArg State.hfail hsame :)⟩

/-- A parser command reads the parser's registers alone: with the same ones it gives the same response and leaves the
same ones, whatever else the state holds. -/
theorem exec_parser_reads {i : Instr} {s t : State} (hi : i.isParser = true) (h : exec i s = .next t) :
    ∃ r, t.responses = s.responses ++ [r] ∧
      ∀ u : State, u.hnib = s.hnib → u.hhalf = s.hhalf → u.hfail = s.hfail →
        exec i u = .next
          { u with hnib := t.hnib, hhalf := t.hhalf, hfail := t.hfail, responses := u.responses ++ [r] } := by
  cases i with
  | hexch c =>
    obtain ⟨hbad, rfl⟩ | ⟨hgood, hsep, rfl⟩ | ⟨hgood, hsep, hval, rfl⟩ | ⟨d, hgood, _, hval, hpend, rfl⟩ |
      ⟨d, hgood, _, hval, hpend, rfl⟩ := execHexch_cases h <;>
      refine ⟨_, rfl, ?_⟩ <;> rintro ⟨⟩ rfl rfl rfl
    · refine exec_hexch_of_failed ?_ c
      exact hbad
    · cases isSep_iff.mp hsep
      refine exec_hexch_space ?_
      exact hgood
    · refine exec_hexch_foreign ?_ (isSep_eq_false_iff.mp hsep) hval
      exact hgood
    · rw [setWidth_nibbles]
      refine exec_hexch_second ?_ hval ?_ <;> assumption
    · refine exec_hexch_first ?_ hval ?_ <;> assumption
  | hexend =>
    obtain ⟨hbad, rfl⟩ | ⟨hgood, hpend, rfl⟩ := execHexend_cases h <;> refine ⟨_, rfl, ?_⟩ <;> rintro ⟨⟩ rfl rfl rfl
    · refine exec_hexend_of_bad ?_
      exact hbad
    · refine exec_hexend_of_good ?_ ?_ <;> assumption
  | _ => cases hi

/-- Settles O48: the response and the parser registers of a parser command are those read off any other state with the
same parser; every other command runs alike under any parser. -/
theorem parserAndEngineDoNotSeeEachOther : Obligations.ParserAndEngineDoNotSeeEachOther := by
  intro i s u t v ht hv
  refine ⟨fun hi hnib hhalf hfail => ?_, fun hi hu => ?_⟩
  · obtain ⟨r, hr, hsame⟩ := exec_parser_reads hi ht
    cases (hsame u hnib.symm hhalf.symm hfail.symm).symm.trans hv
    exact ⟨(newResponses_of_append hr).trans (newResponses_of_append rfl).symm, rfl, rfl, rfl⟩
  · have hother := exec_withParser hi ht u.hnib u.hhalf u.hfail u.port
    have hsame : s.withParser u.hnib u.hhalf u.hfail u.port = u := by
      rw [hu]
      rfl
    rw [hsame] at hother
    cases hother.symm.trans hv
    have hport : u.port = t.port := (congrArg State.port hu :).trans (exec_keeps_port ht).1.symm
    have hresp : u.responses = s.responses := (congrArg State.responses hu :)
    rw [newResponses, newResponses, hresp, hport]
    exact ⟨rfl, rfl⟩

/-! ## Any inputs to come -/

/-- No command reads the inputs to come. -/
theorem exec_takeEvent {i : Instr} {s t : State} (h : exec i s = .next t) (rest : List PortEvent) :
    exec i (s.takeEvent rest) = .next (t.takeEvent rest) := by
  cases hi : i.isParser with
  | true =>
    obtain ⟨r, hr, hsame⟩ := exec_parser_reads hi h
    rw [hsame (s.takeEvent rest) rfl rfl rfl, exec_parser_frame hi h, hr]
    rfl
  | false =>
    obtain ⟨hnib, hhalf, hfail⟩ := exec_keeps_parser hi h
    have hother : exec i (s.takeEvent rest) = .next (t.withParser s.hnib s.hhalf s.hfail rest) :=
      exec_withParser hi h s.hnib s.hhalf s.hfail rest
    rwa [← hnib, ← hhalf, ← hfail] at hother

/-- One step and then the others. -/
theorem run_succ_of_step {s t : State} (h : step s = .next t) (k : Nat) : core.run (k + 1) s = core.run k t := by
  have hstep : core.step s = .next t := h
  simp only [Host.Core.run, hstep]

/-- Settles O16: each step takes the next word, which decodes to its command, and the command does not read the port. -/
theorem portRunsCommandsInOrder : Obligations.PortRunsCommandsInOrder := by
  intro is s rest hreset hport
  induction is generalizing s with
  | nil =>
    have hrest : rest = s.port := hport.symm
    subst hrest
    rfl
  | cons i is ih =>
    obtain ⟨t, ht⟩ := exec_total i (s.takeEvent rest)
    obtain ⟨htport, htreset⟩ := exec_keeps_port ht
    have hstep := (step_exec hport hreset (decode_encode i)).trans (exec_takeEvent ht _)
    have hrun := ih (t.takeEvent (is.map (fun j => .command (encode j)) ++ rest)) (htreset.trans hreset)
      (takeEvent_port t _)
    have hback : t.takeEvent rest = t := by
      rw [show rest = t.port from htport.symm]
      rfl
    refine ((run_succ_of_step hstep _).trans hrun).trans ?_
    show sendAll is (t.takeEvent rest) = sendAll (i :: is) (s.takeEvent rest)
    rw [hback, sendAll_cons_of_exec ht]

/-! ## A failing command (60_exceptions.md R149) -/

theorem exec_of_execError {i : Instr} {s : State} {e : ErrorKind} (h : execError i s = some e) :
    exec i s = raise e (failedState i s) := by
  obtain ⟨e', herr, hexec⟩ | ⟨herr, _⟩ := exec_asAnnounced i s
  · cases h.symm.trans herr
    exact hexec
  · cases h.symm.trans herr

/-- No error depends on the responses given so far. -/
theorem execError_respond (i : Instr) (s : State) (st : BitVec 8) (n : BitVec 4) (data : RspData) :
    execError i (respond st n data s) = execError i s := by
  cases i <;> rfl

theorem failedState_respond (i : Instr) (s : State) (st : BitVec 8) (n : BitVec 4) (data : RspData) :
    failedState i (respond st n data s) = respond st n data (failedState i s) := by
  cases i <;> rfl

/-- The error is still there after the failure, and writes nothing more; only `HEXEND` takes its cause away. -/
theorem execError_failedState {i : Instr} {s : State} {e : ErrorKind} (hi : i ≠ .hexend) (h : execError i s = some e) :
    execError i (failedState i s) = some e ∧ failedState i (failedState i s) = failedState i s := by
  cases i with
  | hexend => exact absurd rfl hi
  | hexch c =>
    obtain ⟨_, he⟩ := Option.ite_none_right_eq_some.mp h
    have hfails : execError (.hexch c) s.failText = some .malformedHexInput := by simp [execError]
    exact ⟨hfails.trans he, rfl⟩
  | _ => exact ⟨h, rfl⟩

/-- Settles O46: the state a failing command leaves raises the same error and is its own failed state. -/
theorem sameFailureRepeats : Obligations.SameFailureRepeats := by
  intro s t i r hi h hr hst
  obtain ⟨e, herr, hexec⟩ | ⟨_, n, data, u, hu, hexec⟩ := exec_asAnnounced i s
  · obtain ⟨herr', hstate⟩ := execError_failedState hi herr
    cases raise_next_iff.mp (hexec.symm.trans h)
    cases eq_of_respond_responses (failedState_responses i s) hr
    rw [exec_of_execError ((execError_respond ..).trans herr'), failedState_respond, hstate]
    rfl
  · cases answer_next_iff.mp (hexec.symm.trans h)
    cases eq_of_respond_responses hu hr
    exact absurd rfl hst

/-! ## The flags (10_state.md R13, R15, R22) -/

theorem hexend_rests {s t : State} (h : exec .hexend s = .next t) : t.ParserAtRest := by
  obtain ⟨_, rfl⟩ | ⟨_, _, rfl⟩ := execHexend_cases h <;> exact ⟨rfl, rfl⟩

/-- Settles O51: `HEXEND` clears both flags, and the commands outside the parser leave them alone. -/
theorem onlyHexchOpensAText : Obligations.OnlyHexchOpensAText := by
  intro i s t h
  refine ⟨fun hi hrest => ?_, ?_⟩
  · cases hparser : i.isParser with
    | false =>
      obtain ⟨_, hhalf, hfail⟩ := exec_keeps_parser hparser h
      exact ⟨hhalf.trans hrest.1, hfail.trans hrest.2⟩
    | true =>
      cases i with
      | hexch c => exact absurd rfl (hi c)
      | hexend => exact hexend_rests h
      | _ => cases hparser
  · rintro rfl
    exact hexend_rests h

/-- No command but `LDSPEC` writes the active spec, and while a computation is open `LDSPEC` does not either (R15). -/
theorem exec_keeps_spec {i : Instr} {s t : State} (hi : i ≠ .ldspec ∨ s.run = true) (h : exec i s = .next t) :
    t.activeSpec = s.activeSpec ∧ t.refOut = s.refOut ∧ t.rpoly = s.rpoly ∧ t.specv = s.specv := by
  cases i with
  | ldspec =>
    cases (execLdspec_of_run (hi.resolve_left (absurd rfl))).symm.trans h
    exact ⟨rfl, rfl, rfl, rfl⟩
  | hexch _ | hexend =>
    rw [exec_parser_frame rfl h]
    exact ⟨rfl, rfl, rfl, rfl⟩
  | start | byte _ | final =>
    rw [exec_engine_frame rfl h]
    exact ⟨rfl, rfl, rfl, rfl⟩
  | _ =>
    cases h
    exact ⟨rfl, rfl, rfl, rfl⟩

/-- What `LDSPEC` does to `SPECV`: a success sets it, a failure leaves it (R13). -/
theorem ldspec_specv {s t : State} (h : exec .ldspec s = .next t) :
    t.specv = s.specv ∨ (t.specv = true ∧ t.responses = s.responses ++ [⟨0, 0, 0⟩]) := by
  obtain ⟨_, rfl⟩ | ⟨_, _, rfl⟩ | ⟨_, _, _, _, rfl⟩ | ⟨_, _, _, _, rfl⟩ := execLdspec_cases h
  · exact .inl rfl
  · exact .inl rfl
  · exact .inl rfl
  · exact .inr ⟨rfl, rfl⟩

/-- What a command does to `SPECV`. -/
theorem exec_specv {i : Instr} {s t : State} (h : exec i s = .next t) :
    t.specv = s.specv ∨ (i = .ldspec ∧ t.specv = true ∧ t.responses = s.responses ++ [⟨0, 0, 0⟩]) := by
  by_cases hi : i = .ldspec
  · subst hi
    exact (ldspec_specv h).imp_right fun hset => ⟨rfl, hset⟩
  · obtain ⟨_, _, _, hspec⟩ := exec_keeps_spec (.inl hi) h
    exact .inl hspec

/-- What a command does to `RUN`. -/
theorem exec_run {i : Instr} {s t : State} (h : exec i s = .next t) :
    t.run = s.run ∨ (i = .start ∧ s.specv = true ∧ t.run = true) ∨ (i = .final ∧ t.run = false) := by
  cases i with
  | start =>
    obtain ⟨hspec, rfl⟩ | ⟨_, rfl⟩ := execStart_cases h
    · exact .inr (.inl ⟨rfl, hspec, rfl⟩)
    · exact .inl rfl
  | final =>
    obtain ⟨_, rfl⟩ | ⟨_, rfl⟩ := execFinal_cases h
    · exact .inr (.inr ⟨rfl, rfl⟩)
    · exact .inl rfl
  | byte b => obtain ⟨_, rfl⟩ | ⟨_, rfl⟩ := execByte_cases h <;> exact .inl rfl
  | hexch _ | hexend =>
    rw [exec_parser_frame rfl h]
    exact .inl rfl
  | ldspec =>
    rw [exec_ldspec_frame h]
    exact .inl rfl
  | _ =>
    cases h
    exact .inl rfl

/-- A flag is not both 0 and 1. -/
theorem flag_absurd {b : Bool} {p : Prop} (hclear : b = false) (hset : b = true) : p :=
  absurd (hclear.symm.trans hset) nofun

/-- Settles O49: of the outcomes of a step, a reset clears `SPECV` and a successful `LDSPEC` sets it. -/
theorem specvChangesOnlyByLdspecAndReset : Obligations.SpecvChangesOnlyByLdspecAndReset := by
  intro s t h
  obtain ⟨rest, rs, rfl⟩ | ⟨w, rest, i, hport, hreset, hdec, hexec⟩ | ⟨hreset, ht⟩ := step_outcome h
  · exact ⟨fun hset hclear => flag_absurd hclear hset, flag_absurd⟩
  · obtain hkept | ⟨rfl, hloaded, hresp⟩ := exec_specv hexec
    · exact ⟨fun hset hclear => flag_absurd (hkept.symm.trans hclear) hset,
        fun hclear hset => flag_absurd hclear (hkept.symm.trans hset)⟩
    · exact ⟨fun _ hclear => flag_absurd hclear hloaded, fun _ _ => ⟨w, rest, hport, hreset, hdec, hresp⟩⟩
  · have hcleared : t.specv = false := congrArg State.specv ht
    exact ⟨fun _ _ => hreset, fun _ hset => flag_absurd hcleared hset⟩

/-- Settles O50: of the outcomes of a step, `START` sets `RUN`, `FINAL` and a reset clear it, and no command writes the
active spec while it is set. -/
theorem runGuardsTheActiveSpec : Obligations.RunGuardsTheActiveSpec := by
  intro s t h
  obtain ⟨rest, rs, rfl⟩ | ⟨w, rest, i, hport, hreset, hdec, hexec⟩ | ⟨hreset, ht⟩ := step_outcome h
  · exact ⟨flag_absurd, fun hset hclear => flag_absurd hclear hset, fun _ _ => ⟨rfl, rfl, rfl, rfl⟩⟩
  · refine ⟨fun hclear hset => ?_, fun hset hclear => ?_, fun hopen _ => ?_⟩
    · obtain hkept | ⟨rfl, hspec, _⟩ | ⟨_, hclosed⟩ := exec_run hexec
      · exact flag_absurd hclear (hkept.symm.trans hset)
      · exact ⟨w, rest, hport, hreset, hdec, hspec⟩
      · exact flag_absurd hclosed hset
    · obtain hkept | ⟨_, _, hopened⟩ | ⟨rfl, _⟩ := exec_run hexec
      · exact flag_absurd (hkept.symm.trans hclear) hset
      · exact flag_absurd hclear hopened
      · exact .inl ⟨w, rest, hport, hdec⟩
    · exact exec_keeps_spec (s := s.takeEvent rest) (.inr hopen) hexec
  · have hclosed : t.run = false := congrArg State.run ht
    exact ⟨fun _ hset => flag_absurd hclosed hset, fun _ _ => .inr hreset, fun _ hset => flag_absurd hclosed hset⟩

end Sys2Proof.Machine
end

section
/-! PROOF. The state invariants (spec 10_state.md R22): a loaded spec fits its width, an open computation has a loaded
spec and a register within the width, and every step keeps it so. -/

namespace Sys2Proof.Machine

open Sys2Proof

/-! ## Loading a spec (40_spec_load.md R66, R67) -/

/-- The committed row meets item 2 of the invariants: `LDSPEC` has checked its numbers and its flags, and has formed
`RPOLY`. -/
theorem commitRow_specFits {s : State} {w : Width} (hrow : stagedWidth s = some w)
    (hflags : rowRefIn s.rowCtrl = rowRefOut s.rowCtrl) : (commitRow w s).SpecFits := by
  obtain ⟨_, hpoly, hinit, hxor⟩ := wellFormedWidth_eq_some.mp hrow
  exact ⟨hpoly, hinit, hxor, hflags, rfl⟩

/-- A value within the width leaves nothing when it is shifted right by the width (R67). -/
theorem shiftRight_bits_of_fits {w : Width} {v : Word} (hv : v.toNat < 2 ^ w.bits) : v >>> w.bits = 0 := by
  apply BitVec.eq_of_toNat_eq
  rw [BitVec.toNat_ushiftRight, Nat.shiftRight_eq_div_pow]
  exact Nat.div_eq_of_lt hv

/-- Settles O19: a failure has another status than 0, so the row was committed, and its values fit. -/
theorem validationNeverTruncates : Obligations.ValidationNeverTruncates := by
  intro s t h hok
  obtain ⟨_, rfl⟩ | ⟨_, _, rfl⟩ | ⟨_, _, _, _, rfl⟩ | ⟨w, _, hrow, hflags, rfl⟩ := execLdspec_cases h
  · exact absurd (eq_of_respond_responses rfl hok) (by decide)
  · exact absurd (eq_of_respond_responses rfl hok) (by decide)
  · exact absurd (eq_of_respond_responses rfl hok) (by decide)
  · obtain ⟨hpoly, hinit, hxor, hrest⟩ := commitRow_specFits hrow hflags
    exact ⟨rfl, rfl, rfl, shiftRight_bits_of_fits hpoly, shiftRight_bits_of_fits hinit, shiftRight_bits_of_fits hxor,
      hpoly, hinit, hxor, hrest⟩

/-! ## Every step keeps the invariant -/

theorem ldspec_keeps_inv {s t : State} (hinv : s.Inv) (h : exec .ldspec s = .next t) : t.Inv := by
  obtain ⟨_, rfl⟩ | ⟨_, _, rfl⟩ | ⟨_, _, _, _, rfl⟩ | ⟨w, hidle, hrow, hflags, rfl⟩ := execLdspec_cases h
  · exact hinv
  · exact hinv
  · exact hinv
  · exact ⟨fun _ => commitRow_specFits hrow hflags, fun hopen => flag_absurd hidle hopen⟩

theorem start_keeps_inv {s t : State} (hinv : s.Inv) (h : exec .start s = .next t) : t.Inv := by
  obtain ⟨hloaded, rfl⟩ | ⟨_, rfl⟩ := execStart_cases h
  · obtain ⟨hspec, _⟩ := hinv
    obtain ⟨_, hinit, _⟩ := hspec hloaded
    exact ⟨hspec, fun _ => ⟨hloaded, hinit⟩⟩
  · exact hinv

theorem byte_keeps_inv {b : Byte} {s t : State} (hinv : s.Inv) (h : exec (.byte b) s = .next t) : t.Inv := by
  obtain ⟨hopen, rfl⟩ | ⟨_, rfl⟩ := execByte_cases h
  · obtain ⟨hspec, hrun⟩ := hinv
    obtain ⟨hloaded, hreg⟩ := hrun hopen
    obtain ⟨hpoly, _, _, _, hrpoly⟩ := hspec hloaded
    have hrfits : s.rpoly.toNat < 2 ^ s.w.bits := hrpoly ▸ reflect_lt _ _
    exact ⟨hspec, fun _ => ⟨hloaded, absorb_fits hreg hpoly hrfits s.refIn b⟩⟩
  · exact hinv

theorem final_keeps_inv {s t : State} (hinv : s.Inv) (h : exec .final s = .next t) : t.Inv := by
  obtain ⟨_, rfl⟩ | ⟨_, rfl⟩ := execFinal_cases h
  · exact ⟨hinv.1, nofun⟩
  · exact hinv

/-- Every command keeps the invariant; the parser, the staging commands and the stateless units write no register it
speaks of. -/
theorem exec_keeps_inv {i : Instr} {s t : State} (hinv : s.Inv) (h : exec i s = .next t) : t.Inv := by
  cases i with
  | ldspec => exact ldspec_keeps_inv hinv h
  | start => exact start_keeps_inv hinv h
  | byte b => exact byte_keeps_inv hinv h
  | final => exact final_keeps_inv hinv h
  | hexch _ | hexend =>
    rw [exec_parser_frame rfl h]
    exact hinv
  | _ =>
    cases h
    exact hinv

theorem step_keeps_inv {s t : State} (hinv : s.Inv) (h : step s = .next t) : t.Inv := by
  obtain ⟨rest, rs, rfl⟩ | ⟨w, rest, i, _, _, _, hexec⟩ | ⟨_, ht⟩ := step_outcome h
  · exact hinv
  · have hinv' : (s.takeEvent rest).Inv := hinv
    exact exec_keeps_inv hinv' hexec
  · rw [ht]
    exact ⟨nofun, nofun⟩

/-- Settles O53: a step keeps the registers, runs a command or takes a reset, after which no spec is loaded. -/
theorem stepKeepsInv : Obligations.StepKeepsInv := fun _ _ => step_keeps_inv

/-- Settles O52: at reset no spec is loaded and nothing is open. -/
theorem invHoldsAtReset : Obligations.InvHoldsAtReset := ⟨⟨nofun, nofun⟩, rfl, rfl, rfl⟩

end Sys2Proof.Machine
end

section
/-! PROOF. What no response can show (spec 10_state.md R22 item 5, R23): two states that agree on everything but the
registers behind a closed gate stay so, with equal responses. -/

namespace Sys2Proof.Machine

open Sys2Proof

/-! ## The updates of the state keep the agreement -/

theorem respond_sameView {s u : State} (h : s.SameView u) (st : BitVec 8) (n : BitVec 4) (data : RspData) :
    (respond st n data s).SameView (respond st n data u) := by
  obtain ⟨hctl, hpoly, hinit, hxor, hspecv, hrun, hfail, hreset, hport, hresp, hgated⟩ := h
  exact ⟨hctl, hpoly, hinit, hxor, hspecv, hrun, hfail, hreset, hport, congrArg (· ++ _) hresp, hgated⟩

theorem stageCtl_sameView {s u : State} (h : s.SameView u) (v : BitVec 10) :
    (s.stageCtl v).SameView (u.stageCtl v) := by
  obtain ⟨_, hrest⟩ := h
  exact ⟨rfl, hrest⟩

theorem stagePoly_sameView {s u : State} (h : s.SameView u) (v : Word) : (s.stagePoly v).SameView (u.stagePoly v) := by
  obtain ⟨hctl, _, hrest⟩ := h
  exact ⟨hctl, rfl, hrest⟩

theorem stageInit_sameView {s u : State} (h : s.SameView u) (v : Word) : (s.stageInit v).SameView (u.stageInit v) := by
  obtain ⟨hctl, hpoly, _, hrest⟩ := h
  exact ⟨hctl, hpoly, rfl, hrest⟩

theorem stageXor_sameView {s u : State} (h : s.SameView u) (v : Word) : (s.stageXor v).SameView (u.stageXor v) := by
  obtain ⟨hctl, hpoly, hinit, _, hrest⟩ := h
  exact ⟨hctl, hpoly, hinit, rfl, hrest⟩

/-- The active spec that is committed is the staged row, which both states hold. -/
theorem commitRow_sameView {s u : State} (h : s.SameView u) (w : Width) :
    (commitRow w s).SameView (commitRow w u) := by
  obtain ⟨hctl, hpoly, hinit, hxor, _, hrun, hfail, hreset, hport, hresp, _, hreg, htext⟩ := h
  exact ⟨hctl, hpoly, hinit, hxor, rfl, hrun, hfail, hreset, hport, hresp,
    fun _ => ⟨rfl, hpoly, hinit, hxor, congrArg rowRefIn hctl, congrArg rowRefOut hctl, congrArg (reflect · w) hpoly⟩,
    hreg, htext⟩

/-- A register written with the same value shows it in both states. -/
theorem setReg_sameView {s u : State} (h : s.SameView u) {v v' : Word} (hv : v = v') :
    (s.setReg v).SameView (u.setReg v') := by
  obtain ⟨hctl, hpoly, hinit, hxor, hspecv, hrun, hfail, hreset, hport, hresp, hspec, _, htext⟩ := h
  exact ⟨hctl, hpoly, hinit, hxor, hspecv, hrun, hfail, hreset, hport, hresp, hspec, fun _ => hv, htext⟩

/-- Opening the gate of `REG` needs the registers to be equal already. -/
theorem openRun_sameView {s u : State} (h : s.SameView u) (hreg : s.reg = u.reg) : s.openRun.SameView u.openRun := by
  obtain ⟨hctl, hpoly, hinit, hxor, hspecv, _, hfail, hreset, hport, hresp, hspec, _, htext⟩ := h
  exact ⟨hctl, hpoly, hinit, hxor, hspecv, rfl, hfail, hreset, hport, hresp, hspec, fun _ => hreg, htext⟩

theorem closeRun_sameView {s u : State} (h : s.SameView u) : s.closeRun.SameView u.closeRun := by
  obtain ⟨hctl, hpoly, hinit, hxor, hspecv, _, hfail, hreset, hport, hresp, hspec, _, htext⟩ := h
  exact ⟨hctl, hpoly, hinit, hxor, hspecv, rfl, hfail, hreset, hport, hresp, hspec, nofun, htext⟩

theorem keepNibble_sameView {s u : State} (h : s.SameView u) (d : BitVec 4) :
    (s.keepNibble d).SameView (u.keepNibble d) := by
  obtain ⟨hctl, hpoly, hinit, hxor, hspecv, hrun, hfail, hreset, hport, hresp, hspec, hreg, _⟩ := h
  exact ⟨hctl, hpoly, hinit, hxor, hspecv, hrun, hfail, hreset, hport, hresp, hspec, hreg, fun _ => ⟨rfl, fun _ => rfl⟩⟩

theorem clearHalf_sameView {s u : State} (h : s.SameView u) : s.clearHalf.SameView u.clearHalf := by
  obtain ⟨hctl, hpoly, hinit, hxor, hspecv, hrun, hfail, hreset, hport, hresp, hspec, hreg, _⟩ := h
  exact ⟨hctl, hpoly, hinit, hxor, hspecv, hrun, hfail, hreset, hport, hresp, hspec, hreg, fun _ => ⟨rfl, nofun⟩⟩

theorem failText_sameView {s u : State} (h : s.SameView u) : s.failText.SameView u.failText := by
  obtain ⟨hctl, hpoly, hinit, hxor, hspecv, hrun, _, hreset, hport, hresp, hspec, hreg, _⟩ := h
  exact ⟨hctl, hpoly, hinit, hxor, hspecv, hrun, rfl, hreset, hport, hresp, hspec, hreg, nofun⟩

theorem clearText_sameView {s u : State} (h : s.SameView u) : s.clearText.SameView u.clearText := by
  obtain ⟨hctl, hpoly, hinit, hxor, hspecv, hrun, _, hreset, hport, hresp, hspec, hreg, _⟩ := h
  exact ⟨hctl, hpoly, hinit, hxor, hspecv, hrun, rfl, hreset, hport, hresp, hspec, hreg, fun _ => ⟨rfl, nofun⟩⟩

theorem takeEvent_sameView {s u : State} (h : s.SameView u) (rest : List PortEvent) :
    (s.takeEvent rest).SameView (u.takeEvent rest) := by
  obtain ⟨hctl, hpoly, hinit, hxor, hspecv, hrun, hfail, hreset, _, hgated⟩ := h
  exact ⟨hctl, hpoly, hinit, hxor, hspecv, hrun, hfail, hreset, rfl, hgated⟩

/-- After the registers are reset in both, only the ports can differ. -/
theorem enterReset_sameView {s u : State} (h : s.SameView u) : s.enterReset.SameView u.enterReset := by
  obtain ⟨_, _, _, _, _, _, _, _, hport, hresp, _⟩ := h
  exact ⟨rfl, rfl, rfl, rfl, rfl, rfl, rfl, rfl, hport, hresp, nofun, nofun, fun _ => ⟨rfl, nofun⟩⟩

theorem leaveReset_sameView {s u : State} (h : s.SameView u) : s.leaveReset.SameView u.leaveReset := by
  have ⟨_, _, _, _, _, _, _, hreset, hport, hresp, _⟩ := h
  by_cases hin : s.inReset = true
  · rw [leaveReset_of_inReset hin, leaveReset_of_inReset (hreset ▸ hin)]
    exact ⟨rfl, rfl, rfl, rfl, rfl, rfl, rfl, rfl, hport, hresp, nofun, nofun, fun _ => ⟨rfl, nofun⟩⟩
  · have hout : s.inReset = false := Bool.eq_false_iff.mpr hin
    rwa [leaveReset_of_not_inReset hout, leaveReset_of_not_inReset (hreset ▸ hout)]

/-! ## Each command keeps the agreement -/

/-- The command leads to states that agree, wherever it is run of the two. -/
def KeepsView (i : Instr) (s u : State) : Prop :=
  ∃ t v, exec i s = .next t ∧ exec i u = .next v ∧ t.SameView v

theorem keepsView_answer {i : Instr} {s u s' u' : State} {n n' : BitVec 4} {data data' : RspData}
    (hs : exec i s = answer n data s') (hu : exec i u = answer n' data' u') (hn : n = n') (hdata : data = data')
    (h : s'.SameView u') : KeepsView i s u := by
  subst hn hdata
  exact ⟨_, _, hs, hu, respond_sameView h ..⟩

theorem keepsView_raise {i : Instr} {s u s' u' : State} {e : ErrorKind} (hs : exec i s = raise e s')
    (hu : exec i u = raise e u') (h : s'.SameView u') : KeepsView i s u :=
  ⟨_, _, hs, hu, respond_sameView h ..⟩

theorem ldspec_keepsView {s u : State} (h : s.SameView u) : KeepsView .ldspec s u := by
  have ⟨hctl, hpoly, hinit, hxor, _, hrun, _⟩ := h
  have hstaged : stagedWidth u = stagedWidth s := by simp only [stagedWidth, hctl, hpoly, hinit, hxor]
  by_cases hopen : s.run = true
  · exact keepsView_raise (execLdspec_of_run hopen) (execLdspec_of_run (hrun ▸ hopen)) h
  have hidle : s.run = false := Bool.eq_false_iff.mpr hopen
  have hidle' : u.run = false := hrun ▸ hidle
  cases hrow : stagedWidth s with
  | none =>
    exact keepsView_raise (execLdspec_of_illFormed hidle hrow)
      (execLdspec_of_illFormed hidle' (hstaged.trans hrow)) h
  | some w =>
    have hs := execLdspec_of_wellFormed hidle hrow
    have hu := execLdspec_of_wellFormed hidle' (hstaged.trans hrow)
    rw [← hctl] at hu
    by_cases hflags : rowRefIn s.rowCtrl = rowRefOut s.rowCtrl
    · exact keepsView_answer (hs.trans (if_pos hflags)) (hu.trans (if_pos hflags)) rfl rfl (commitRow_sameView h w)
    · exact keepsView_raise (hs.trans (if_neg hflags)) (hu.trans (if_neg hflags)) h

theorem start_keepsView {s u : State} (h : s.SameView u) : KeepsView .start s u := by
  have ⟨_, _, _, _, hspecv, _, _, _, _, _, hspec, _⟩ := h
  by_cases hloaded : s.specv = true
  · obtain ⟨_, _, hinit, _⟩ := hspec hloaded
    exact keepsView_answer (whenLoaded_of_loaded hloaded _) (whenLoaded_of_loaded (hspecv ▸ hloaded) _) rfl rfl
      (openRun_sameView (setReg_sameView h hinit) hinit)
  · have hunloaded : s.specv = false := Bool.eq_false_iff.mpr hloaded
    exact keepsView_raise (whenLoaded_of_unloaded hunloaded _) (whenLoaded_of_unloaded (hspecv ▸ hunloaded) _) h

/-- While a computation is open the two states have the same engine, since a spec is loaded in both. -/
theorem byte_keepsView {s u : State} (hinv : s.Inv) (h : s.SameView u) (b : Byte) : KeepsView (.byte b) s u := by
  have ⟨_, _, _, _, _, hrun, _, _, _, _, hspec, hreg, _⟩ := h
  by_cases hopen : s.run = true
  · obtain ⟨hloaded, _⟩ := hinv.2 hopen
    obtain ⟨hw, hpoly, _, _, hin, _, hrpoly⟩ := hspec hloaded
    have habsorb : absorb s.w s.poly s.rpoly s.refIn s.reg b = absorb u.w u.poly u.rpoly u.refIn u.reg b := by
      rw [hw, hpoly, hrpoly, hin, hreg hopen]
    exact keepsView_answer (whenRunning_of_running hopen _) (whenRunning_of_running (hrun ▸ hopen) _) rfl rfl
      (setReg_sameView h habsorb)
  · have hidle : s.run = false := Bool.eq_false_iff.mpr hopen
    exact keepsView_raise (whenRunning_of_idle hidle _) (whenRunning_of_idle (hrun ▸ hidle) _) h

theorem final_keepsView {s u : State} (hinv : s.Inv) (h : s.SameView u) : KeepsView .final s u := by
  have ⟨_, _, _, _, _, hrun, _, _, _, _, hspec, hreg, _⟩ := h
  by_cases hopen : s.run = true
  · obtain ⟨hloaded, _⟩ := hinv.2 hopen
    obtain ⟨hw, _, _, hxor, _⟩ := hspec hloaded
    exact keepsView_answer (whenRunning_of_running hopen _) (whenRunning_of_running (hrun ▸ hopen) _)
      (by rw [hw]) (by rw [hreg hopen, hxor]) (closeRun_sameView h)
  · have hidle : s.run = false := Bool.eq_false_iff.mpr hopen
    exact keepsView_raise (whenRunning_of_idle hidle _) (whenRunning_of_idle (hrun ▸ hidle) _) h

theorem hexch_keepsView {s u : State} (h : s.SameView u) (c : Byte) : KeepsView (.hexch c) s u := by
  have ⟨_, _, _, _, _, _, hfail, _, _, _, _, _, htext⟩ := h
  by_cases hbad : s.hfail = true
  · exact keepsView_raise (exec_hexch_of_failed hbad c) (exec_hexch_of_failed (hfail ▸ hbad) c) h
  have hgood : s.hfail = false := Bool.eq_false_iff.mpr hbad
  have hgood' : u.hfail = false := hfail ▸ hgood
  obtain ⟨hhalf, hnib⟩ := htext hgood
  by_cases hsep : c = 0x20
  · subst hsep
    exact keepsView_answer (exec_hexch_space hgood) (exec_hexch_space hgood') rfl rfl h
  cases hval : hexVal c with
  | none =>
    exact keepsView_raise (exec_hexch_foreign hgood hsep hval) (exec_hexch_foreign hgood' hsep hval)
      (failText_sameView h)
  | some d =>
    cases hpend : s.hhalf with
    | false =>
      exact keepsView_answer (exec_hexch_first hgood hval hpend) (exec_hexch_first hgood' hval (hhalf ▸ hpend)) rfl rfl
        (keepNibble_sameView h d)
    | true =>
      exact keepsView_answer (exec_hexch_second hgood hval hpend) (exec_hexch_second hgood' hval (hhalf ▸ hpend)) rfl
        (by rw [hnib hpend]) (clearHalf_sameView h)

theorem hexend_keepsView {s u : State} (h : s.SameView u) : KeepsView .hexend s u := by
  have ⟨_, _, _, _, _, _, hfail, _, _, _, _, _, htext⟩ := h
  by_cases hbad : s.hfail = true
  · exact keepsView_raise (exec_hexend_of_bad (.inl hbad)) (exec_hexend_of_bad (.inl (hfail ▸ hbad)))
      (clearText_sameView h)
  have hgood : s.hfail = false := Bool.eq_false_iff.mpr hbad
  obtain ⟨hhalf, _⟩ := htext hgood
  by_cases hpend : s.hhalf = true
  · exact keepsView_raise (exec_hexend_of_bad (.inr hpend)) (exec_hexend_of_bad (.inr (hhalf ▸ hpend)))
      (clearText_sameView h)
  · have hrest : s.hhalf = false := Bool.eq_false_iff.mpr hpend
    exact keepsView_answer (exec_hexend_of_good hgood hrest) (exec_hexend_of_good (hfail ▸ hgood) (hhalf ▸ hrest)) rfl
      rfl (clearText_sameView h)

/-- Every command keeps the agreement and is answered alike. -/
theorem exec_keepsView {s u : State} (hinv : s.Inv) (h : s.SameView u) (i : Instr) : KeepsView i s u := by
  cases i with
  | rowctl width refIn refOut => exact keepsView_answer rfl rfl rfl rfl (stageCtl_sameView h _)
  | rowpoly p => exact keepsView_answer rfl rfl rfl rfl (stagePoly_sameView h p)
  | rowinit v => exact keepsView_answer rfl rfl rfl rfl (stageInit_sameView h v)
  | rowxor x => exact keepsView_answer rfl rfl rfl rfl (stageXor_sameView h x)
  | ldspec => exact ldspec_keepsView h
  | start => exact start_keepsView h
  | byte b => exact byte_keepsView hinv h b
  | final => exact final_keepsView hinv h
  | hexch c => exact hexch_keepsView h c
  | hexend => exact hexend_keepsView h
  | _ => exact keepsView_answer rfl rfl rfl rfl h

/-! ## Each step keeps the agreement -/

theorem runWord_sameView {s u : State} (hinv : s.Inv) (h : s.SameView u) (w : CmdWord) :
    ∃ t v, runWord w s = .next t ∧ runWord w u = .next v ∧ t.SameView v := by
  cases hdec : decode w with
  | ok i =>
    rw [runWord_of_decode_ok hdec, runWord_of_decode_ok hdec]
    exact exec_keepsView hinv h i
  | error e =>
    exact ⟨_, _, runWord_of_decode_error hdec s, runWord_of_decode_error hdec u, respond_sameView h ..⟩

theorem step_sameView {s u : State} (hinv : s.Inv) (h : s.SameView u) :
    ∃ t v, step s = .next t ∧ step u = .next v ∧ t.SameView v := by
  have ⟨_, _, _, _, _, _, _, hreset, hport, _⟩ := h
  cases hinput : s.port with
  | nil => exact ⟨s, u, step_of_no_input hinput, step_of_no_input (hport ▸ hinput), h⟩
  | cons e rest =>
    have hinput' : u.port = e :: rest := hport ▸ hinput
    have htaken := takeEvent_sameView h rest
    cases e with
    | command w =>
      by_cases hin : s.inReset = true
      · exact ⟨_, _, step_command_in_reset hinput hin, step_command_in_reset hinput' (hreset ▸ hin), htaken⟩
      · have hout : s.inReset = false := Bool.eq_false_iff.mpr hin
        rw [step_command hinput hout, step_command hinput' (hreset ▸ hout)]
        have hinv' : (s.takeEvent rest).Inv := hinv
        exact runWord_sameView hinv' htaken w
    | assertReset c => exact ⟨_, _, step_assertReset hinput, step_assertReset hinput', enterReset_sameView htaken⟩
    | releaseReset => exact ⟨_, _, step_releaseReset hinput, step_releaseReset hinput', leaveReset_sameView htaken⟩

theorem SameView.responses_eq {s u : State} (h : s.SameView u) : s.responses = u.responses := by
  obtain ⟨_, _, _, _, _, _, _, _, _, hresp, _⟩ := h
  exact hresp

/-- Settles O54: each update keeps the agreement, and a gate that is open in one state is open in the other, with equal
registers behind it. -/
theorem unspecifiedRegistersStayUnobservable : Obligations.UnspecifiedRegistersStayUnobservable := by
  intro s u hinv _ h
  obtain ⟨t, v, ht, hv, hview⟩ := step_sameView hinv h
  exact ⟨t, v, ht, hv, hview, SameView.responses_eq hview⟩

/-- Two states that agree are answered alike over any number of steps. -/
theorem run_sameView {s u : State} (hinv : s.Inv) (h : s.SameView u) (k : Nat) :
    ∃ t v, core.run k s = .next t ∧ core.run k u = .next v ∧ t.SameView v := by
  induction k generalizing s u with
  | zero => exact ⟨s, u, rfl, rfl, h⟩
  | succ k ih =>
    obtain ⟨s', u', hs, hu, hview⟩ := step_sameView hinv h
    obtain ⟨t, v, ht, hv, hview'⟩ := ih (step_keeps_inv hinv hs) hview
    exact ⟨t, v, (run_succ_of_step hs k).trans ht, (run_succ_of_step hu k).trans hv, hview'⟩

/-- Settles O55: right after reset every gate is closed, so the nine registers are behind closed gates in both runs. -/
theorem resetValuesOfUnspecifiedRegistersAreUnobservable :
    Obligations.ResetValuesOfUnspecifiedRegistersAreUnobservable := by
  intro w poly init xorOut rpoly reg refIn refOut hnib inputs k
  obtain ⟨t, v, ht, hv, hview⟩ := run_sameView (s := { State.reset with port := inputs })
    (u := { State.reset with
      port := inputs, w := w, poly := poly, init := init, xorOut := xorOut, rpoly := rpoly, reg := reg
      refIn := refIn, refOut := refOut, hnib := hnib })
    ⟨nofun, nofun⟩
    ⟨rfl, rfl, rfl, rfl, rfl, rfl, rfl, rfl, rfl, rfl, nofun, nofun, fun _ => ⟨rfl, nofun⟩⟩ k
  exact ⟨t, v, ht, hv, SameView.responses_eq hview⟩

end Sys2Proof.Machine
end

section
/-! PROOF. Computations on the block (spec 30_encoding.md R50, 40_spec_load.md R62 to R66, 42_engine.md R85 to R88):
what the sequences `LOADSPEC` and `COMPUTE` do, as equations for the whole sequence. -/

namespace Sys2Proof.Machine

open Sys2Proof

/-- The response of a success with no item. -/
def okResponse : Response := ⟨0, 0, 0⟩

theorem sendAll_one (i : Instr) (s : State) : sendAll [i] s = exec i s :=
  (sendWords_one _ s).trans (runWord_of_decode_ok (decode_encode i) s)

/-! ## `LOADSPEC` (40_spec_load.md R62 to R66) -/

/-- The state after the four staging commands of a row. -/
def State.withRow (width : Byte) (poly init : Word) (refIn refOut : Bool) (xorOut : Word) (s : State) : State :=
  { s with
    rowCtrl := ctlBits width refIn refOut, rowPoly := poly, rowInit := init, rowXor := xorOut
    responses := s.responses ++ [okResponse] ++ [okResponse] ++ [okResponse] ++ [okResponse] }

/-- The first four commands of `LOADSPEC` stage the row, whatever the state, and the fifth is `LDSPEC`. -/
theorem sendAll_loadSpecSeq (width : Byte) (poly init : Word) (refIn refOut : Bool) (xorOut : Word) (s : State) :
    sendAll (loadSpecSeq width poly init refIn refOut xorOut) s =
      exec .ldspec (s.withRow width poly init refIn refOut xorOut) := by
  rw [loadSpecSeq, sendAll_cons_of_exec (i := .rowctl width refIn refOut) rfl,
    sendAll_cons_of_exec (i := .rowpoly poly) rfl, sendAll_cons_of_exec (i := .rowinit init) rfl,
    sendAll_cons_of_exec (i := .rowxor xorOut) rfl, sendAll_one]
  rfl

/-- The check of the staged row is the check of its numbers. -/
theorem stagedWidth_withRow (width : Byte) (poly init : Word) (refIn refOut : Bool) (xorOut : Word) (s : State) :
    stagedWidth (s.withRow width poly init refIn refOut xorOut) =
      wellFormedWidth width.toNat poly.toNat init.toNat xorOut.toNat := by
  have hwidth : rowWidth (ctlBits width refIn refOut) = width.toNat := congrArg BitVec.toNat (ctlBits_width ..)
  exact congrArg (wellFormedWidth · poly.toNat init.toNat xorOut.toNat) hwidth

/-- The values of a spec fit its width (R60). -/
structure Fits (sp : Spec) : Prop where
  poly : sp.poly.toNat < 2 ^ sp.w.bits
  init : sp.init.toNat < 2 ^ sp.w.bits
  xorOut : sp.xorOut.toNat < 2 ^ sp.w.bits

/-- The state after `LOADSPEC` of a well-formed symmetric spec. -/
def State.loaded (sp : Spec) (s : State) : State :=
  respond okCode 0 0
    (commitRow sp.w (s.withRow (BitVec.ofNat 8 sp.w.bits) sp.poly sp.init sp.refIn sp.refIn sp.xorOut))

theorem sendAll_loadSpec {sp : Spec} (hsp : Fits sp) {s : State} (hidle : s.run = false) :
    sendAll (loadSpecSeq (BitVec.ofNat 8 sp.w.bits) sp.poly sp.init sp.refIn sp.refIn sp.xorOut) s =
      .next (s.loaded sp) := by
  have hwidth : (BitVec.ofNat 8 sp.w.bits).toNat = sp.w.bits := by cases sp.w <;> rfl
  have hrow := (stagedWidth_withRow (BitVec.ofNat 8 sp.w.bits) sp.poly sp.init sp.refIn sp.refIn sp.xorOut s).trans
    (wellFormedWidth_eq_some.mpr ⟨hwidth, hsp.poly, hsp.init, hsp.xorOut⟩)
  rw [sendAll_loadSpecSeq]
  refine (execLdspec_of_wellFormed (by exact hidle) hrow).trans (if_pos ?_)
  exact (ctlBits_refIn ..).trans (ctlBits_refOut ..).symm

theorem loaded_responses (sp : Spec) (s : State) :
    (s.loaded sp).responses = s.responses ++ List.replicate 5 okResponse := by
  simp [State.loaded, State.withRow, commitRow, okResponse, okCode, List.replicate]

theorem loaded_activeSpec (sp : Spec) (s : State) : (s.loaded sp).activeSpec = sp := by
  have hflag : (s.loaded sp).refIn = sp.refIn := ctlBits_refIn ..
  rw [State.activeSpec, hflag]
  rfl

/-! ## `COMPUTE` (42_engine.md R85 to R88) -/

/-- The state after `BYTE` commands in an open computation. -/
def State.absorbed (data : List Byte) (s : State) : State :=
  { s with
    reg := data.foldl (absorb s.w s.poly s.rpoly s.refIn) s.reg
    responses := s.responses ++ List.replicate data.length okResponse }

theorem sendAll_bytes {s : State} (hopen : s.run = true) (data : List Byte) :
    sendAll (data.map .byte) s = .next (s.absorbed data) := by
  induction data generalizing s with
  | nil =>
    rw [State.absorbed]
    simp
  | cons b data ih =>
    rw [List.map_cons, sendAll_cons_of_exec (exec_byte_of_running hopen b)]
    refine (ih (by exact hopen)).trans ?_
    simp [State.absorbed, List.replicate_succ, okResponse]

/-- The state after `COMPUTE`: the register has absorbed the message, the computation is closed and the checksum is
answered. -/
def State.computed (data : List Byte) (s : State) : State :=
  { s with
    reg := absorbAll s.activeSpec s.init data
    run := false
    responses := s.responses ++ (List.replicate (data.length + 1) okResponse ++
      [⟨0, BitVec.ofNat 4 s.w.bytes, zext64 (compute s.activeSpec data)⟩]) }

/-- `COMPUTE` on a block with a loaded spec. -/
theorem sendAll_computeSeq {s : State} (hloaded : s.specv = true) (hrpoly : s.rpoly = reflect s.poly s.w)
    (data : List Byte) : sendAll (computeSeq data) s = .next (s.computed data) := by
  rw [computeSeq, sendAll_cons_of_exec (exec_start_of_loaded hloaded), sendAll_append, sendAll_bytes rfl, andThen_next,
    sendAll_one, exec_final_of_running rfl]
  simp [State.absorbed, State.computed, State.activeSpec, absorbAll, compute, hrpoly, okResponse, List.replicate_succ]

/-- Settles O33: the two sequences by their equations; all responses but the last are `okResponse`. -/
theorem loadThenComputeAnswersCompute : Obligations.LoadThenComputeAnswersCompute := by
  intro s sp data hidle hpoly hinit hxor
  have hload := sendAll_loadSpec (sp := sp) ⟨hpoly, hinit, hxor⟩ hidle
  have hcompute := sendAll_computeSeq (s := s.loaded sp) rfl rfl data
  have hspec := loaded_activeSpec sp s
  refine ⟨(s.loaded sp).computed data, List.replicate 5 okResponse ++ (List.replicate (data.length + 1) okResponse ++
    [⟨0, BitVec.ofNat 4 sp.w.bytes, zext64 (compute sp data)⟩]), ?_, ?_, ?_, ?_, ?_, rfl, rfl, hspec⟩
  · rw [sendAll_append, hload, andThen_next, hcompute]
  · show (s.loaded sp).responses ++ (_ ++ [⟨0, _, zext64 (compute (s.loaded sp).activeSpec data)⟩]) = _
    rw [loaded_responses, hspec, List.append_assoc]
    rfl
  · simp
  · intro r hr
    simp only [List.mem_append, List.mem_replicate, List.mem_singleton] at hr
    obtain ⟨_, rfl⟩ | ⟨_, rfl⟩ | rfl := hr <;> rfl
  · rw [← List.append_assoc]
    exact List.getLast?_concat

end Sys2Proof.Machine
end

section
/-! PROOF. Texts on the block and back (spec 43_hex_codec.md R101 to R105, sections 2 and 4): the formatted text of a
value parses to its bytes, and the characters of a text drive the converter as `ParseHex` reads them. -/

namespace Sys2Proof.Machine

open Sys2Proof

/-! ## Parsing a formatted text (43_hex_codec.md section 4) -/

/-- The two nibbles of a byte, high nibble first. -/
def nibblesOf (b : Byte) : List (BitVec 4) := [b.extractLsb' 4 4, b.extractLsb' 0 4]

/-- The digits read from the text of some bytes are their nibbles. -/
theorem filterMap_hexVal_text (bs : List Byte) : (bs.flatMap byteText).filterMap hexVal = bs.flatMap nibblesOf := by
  have hbyte (b : Byte) : (byteText b).filterMap hexVal = nibblesOf b := by
    simp [byteText, nibblesOf, (hexVal_hexDigit _).1]
  simp only [List.filterMap_flatMap, hbyte]

theorem pairUp_nibbles (bs : List Byte) : pairUp (bs.flatMap nibblesOf) = bs := by
  induction bs with
  | nil => rfl
  | cons b bs ih =>
    show (b.extractLsb' 4 4 ++ b.extractLsb' 0 4) :: pairUp (bs.flatMap nibblesOf) = b :: bs
    rw [ih, nibbles_append]

theorem length_flatMap_nibbles (bs : List Byte) : (bs.flatMap nibblesOf).length = 2 * bs.length := by
  simp [List.length_flatMap, nibblesOf, Nat.mul_comm]

/-- Every character of a formatted text is a hex digit as the formatter prints it. -/
theorem eq_hexDigit_of_mem_text {bs : List Byte} {c : Byte} (hc : c ∈ bs.flatMap byteText) : ∃ d, c = hexDigit d := by
  obtain ⟨b, _, hb⟩ := List.mem_flatMap.mp hc
  obtain rfl | rfl := List.mem_pair.mp hb
  · exact ⟨_, rfl⟩
  · exact ⟨_, rfl⟩

/-- A printed digit is no separator and no lower-case letter (R104). -/
theorem hexDigit_class (d : BitVec 4) :
    hexDigit d ≠ 0x20 ∧ ¬ (0x61 ≤ (hexDigit d).toNat ∧ (hexDigit d).toNat ≤ 0x66) := by
  revert d
  decide

theorem parseHex_text (bs : List Byte) : parseHex (bs.flatMap byteText) = .ok bs := by
  have hchars : ∀ c ∈ bs.flatMap byteText, c = 0x20 ∨ hexVal c ≠ none := by
    intro c hc
    obtain ⟨d, rfl⟩ := eq_hexDigit_of_mem_text hc
    simp [(hexVal_hexDigit d).1]
  have heven : ((bs.flatMap byteText).filterMap hexVal).length % 2 = 0 := by
    rw [filterMap_hexVal_text, length_flatMap_nibbles]
    exact Nat.mul_mod_right 2 _
  rw [parseHex_of_good hchars heven, filterMap_hexVal_text, pairUp_nibbles]

/-- The display order as the list of the bytes by their places (R105). -/
theorem displayBytes_eq_map (v : Word) (w : Width) (le : Bool) :
    displayBytes v w le = (List.range w.bytes).map fun j => byteOf v (if le then j else w.bytes - 1 - j) := by
  have hlen : (displayBytes v w le).length = w.bytes := by cases le <;> simp [displayBytes]
  refine List.ext_getElem? fun j => ?_
  by_cases hj : j < w.bytes
  · simp [displayBytes_getElem? v w le hj, hj]
  · simp [hlen, hj]

/-- Settles O42: the text of a value is the text of its display bytes, digit by digit. -/
theorem formattedTextParsesBack : Obligations.FormattedTextParsesBack := by
  intro v w le
  refine ⟨?_, fun c hc => ?_⟩
  · rw [formatHex, parseHex_text, displayBytes_eq_map]
    rfl
  · obtain ⟨d, rfl⟩ := eq_hexDigit_of_mem_text hc
    exact hexDigit_class d

/-! ## The characters of a text on the block (43_hex_codec.md R101) -/

/-- The bytes a host collects from responses: those with one item (R103). -/
def itemBytes (rs : List Response) : List Byte := (rs.filter fun r => r.n == 1).map fun r => itemOf r.data 0

/-- The digit the converter holds, if one is pending. -/
def State.pending (s : State) : List (BitVec 4) := if s.hhalf then [s.hnib] else []

/-- A character that fails a text (R100). -/
def Foreign (c : Byte) : Prop := c ≠ 0x20 ∧ hexVal c = none

theorem not_foreign_iff {c : Byte} : ¬ Foreign c ↔ c = 0x20 ∨ hexVal c ≠ none := by
  rw [Foreign, not_and_or, not_not]

/-- From `s` to `t` the converter has read the digits `ds` without failure and has answered `rs`: what was pending and
`ds` are the nibbles of the bytes answered and what is pending now. -/
structure ReadDigits (ds : List (BitVec 4)) (s t : State) (rs : List Response) : Prop where
  good : t.hfail = false
  responses : t.responses = s.responses ++ rs
  ok : ∀ r ∈ rs, r.st = 0
  digits : s.pending ++ ds = (itemBytes rs).flatMap nibblesOf ++ t.pending

theorem itemBytes_append (rs qs : List Response) : itemBytes (rs ++ qs) = itemBytes rs ++ itemBytes qs := by
  simp only [itemBytes, List.filter_append, List.map_append]

theorem ReadDigits.append {ds es : List (BitVec 4)} {s t u : State} {rs qs : List Response}
    (h : ReadDigits ds s t rs) (h' : ReadDigits es t u qs) : ReadDigits (ds ++ es) s u (rs ++ qs) where
  good := h'.good
  responses := by rw [h'.responses, h.responses, List.append_assoc]
  ok := by
    intro r hr
    exact (List.mem_append.mp hr).elim (h.ok r) (h'.ok r)
  digits := by
    rw [← List.append_assoc, h.digits, List.append_assoc, h'.digits, itemBytes_append, List.flatMap_append,
      List.append_assoc]

theorem pending_of_half {s : State} (h : s.hhalf = true) : s.pending = [s.hnib] := if_pos h

theorem pending_of_not_half {s : State} (h : s.hhalf = false) : s.pending = [] := by
  rw [State.pending, h]
  rfl

/-- The item of the response to the second digit of a pair is the byte of the two (R101). -/
theorem nibblesOf_item (hi lo : BitVec 4) :
    nibblesOf (itemOf (BitVec.ofNat 64 (hi.toNat * 16 + lo.toNat)) 0) = [hi, lo] := by
  have hitem : itemOf ((hi ++ lo).setWidth 64) 0 = hi ++ lo := by
    rw [itemOf, BitVec.extractLsb'_setWidth_of_le (by decide), BitVec.extractLsb'_eq_self]
  rw [← setWidth_nibbles, hitem, nibblesOf, BitVec.extractLsb'_append_eq_left,
    BitVec.extractLsb'_append_eq_of_add_le (by decide), BitVec.extractLsb'_eq_self]

/-- A character of a good text that is not foreign is read as the digit it stands for, if it stands for one. -/
theorem hexch_readDigits {s : State} {c : Byte} (hgood : s.hfail = false) (hc : ¬ Foreign c) :
    ∃ t r, exec (.hexch c) s = .next t ∧ ReadDigits (hexVal c).toList s t [r] := by
  cases hval : hexVal c with
  | none =>
    obtain rfl : c = 0x20 := (not_foreign_iff.mp hc).resolve_right (not_not.mpr hval)
    exact ⟨_, _, exec_hexch_space hgood, hgood, rfl, by simp [okCode], List.append_nil _⟩
  | some d =>
    cases hhalf : s.hhalf with
    | false =>
      refine ⟨_, _, exec_hexch_first hgood hval hhalf, hgood, rfl, by simp [okCode], ?_⟩
      rw [pending_of_not_half hhalf]
      rfl
    | true =>
      refine ⟨_, _, exec_hexch_second hgood hval hhalf, hgood, rfl, by simp [okCode], ?_⟩
      rw [pending_of_half hhalf]
      show [s.hnib, d] = nibblesOf (itemOf _ 0) ++ []
      rw [nibblesOf_item, List.append_nil]

theorem sendAll_text_readDigits {text : Text} (hchars : ∀ c ∈ text, ¬ Foreign c) {s : State} (hgood : s.hfail = false) :
    ∃ t rs, sendAll (text.map .hexch) s = .next t ∧ ReadDigits (text.filterMap hexVal) s t rs := by
  induction text generalizing s with
  | nil => exact ⟨s, [], rfl, hgood, (List.append_nil _).symm, nofun, List.append_nil _⟩
  | cons c text ih =>
    obtain ⟨hc, hrest⟩ := List.forall_mem_cons.mp hchars
    obtain ⟨u, r, hu, hread⟩ := hexch_readDigits hgood hc
    obtain ⟨t, rs, ht, hread'⟩ := ih hrest hread.good
    have hdigits : (c :: text).filterMap hexVal = (hexVal c).toList ++ text.filterMap hexVal := by
      rw [List.filterMap_cons]
      cases hexVal c <;> rfl
    rw [hdigits]
    exact ⟨t, r :: rs, (sendAll_cons_of_exec hu _).trans ht, hread.append hread'⟩

/-- A failed text stays failed, and a foreign character fails it (R101). -/
theorem hexch_fails {s t : State} {c : Byte} (hbad : s.hfail = true ∨ Foreign c) (h : exec (.hexch c) s = .next t) :
    t.hfail = true := by
  by_cases hfail : s.hfail = true
  · cases (exec_hexch_of_failed hfail c).symm.trans h
    exact hfail
  · obtain ⟨hsep, hval⟩ := hbad.resolve_left hfail
    cases (exec_hexch_foreign (Bool.eq_false_iff.mpr hfail) hsep hval).symm.trans h
    rfl

/-- The state between the first command of a sequence and the others. -/
theorem exists_exec_of_sendAll_cons {i : Instr} {is : List Instr} {s t : State} (h : sendAll (i :: is) s = .next t) :
    ∃ u, exec i s = .next u ∧ sendAll is u = .next t := by
  obtain ⟨u, hu⟩ := exec_total i s
  exact ⟨u, hu, (sendAll_cons_of_exec hu is).symm.trans h⟩

theorem sendAll_text_fails {text : Text} {s t : State} (hbad : s.hfail = true ∨ ∃ c ∈ text, Foreign c)
    (h : sendAll (text.map .hexch) s = .next t) : t.hfail = true := by
  induction text generalizing s with
  | nil =>
    cases h
    exact hbad.resolve_right (by simp)
  | cons c text ih =>
    obtain ⟨u, hu, ht⟩ := exists_exec_of_sendAll_cons h
    refine ih ?_ ht
    rw [List.exists_mem_cons_iff, ← or_assoc] at hbad
    exact hbad.imp_left fun hbad => hexch_fails hbad hu

/-! ## Sequences of commands -/

theorem exec_answered (i : Instr) (s : State) : ∃ t r, exec i s = .next t ∧ t.responses = s.responses ++ [r] := by
  obtain ⟨e, _, hexec⟩ | ⟨_, n, data, u, hu, hexec⟩ := exec_asAnnounced i s
  · exact ⟨_, _, hexec, congrArg (· ++ _) (failedState_responses i s)⟩
  · exact ⟨_, _, hexec, congrArg (· ++ _) hu⟩

/-- Every command of a sequence is answered once. -/
theorem sendAll_answered (is : List Instr) (s : State) :
    ∃ t rs, sendAll is s = .next t ∧ t.responses = s.responses ++ rs ∧ rs.length = is.length := by
  induction is generalizing s with
  | nil => exact ⟨s, [], rfl, (List.append_nil _).symm, rfl⟩
  | cons i is ih =>
    obtain ⟨u, r, hu, hr⟩ := exec_answered i s
    obtain ⟨t, rs, ht, hrs, hlen⟩ := ih u
    exact ⟨t, r :: rs, (sendAll_cons_of_exec hu is).trans ht, by rw [hrs, hr, List.append_assoc]; rfl,
      congrArg (· + 1) hlen⟩

/-- A sequence of parser commands writes the parser's registers alone. -/
theorem sendAll_parser_frame {is : List Instr} (his : ∀ i ∈ is, i.isParser = true) {s t : State}
    (h : sendAll is s = .next t) :
    t = { s with hnib := t.hnib, hhalf := t.hhalf, hfail := t.hfail, responses := t.responses } := by
  induction is generalizing s with
  | nil =>
    cases h
    rfl
  | cons i is ih =>
    obtain ⟨hi, his⟩ := List.forall_mem_cons.mp his
    obtain ⟨u, hu, ht⟩ := exists_exec_of_sendAll_cons h
    exact (ih his ht).trans (by rw [exec_parser_frame hi hu])

/-! ## `PARSEHEX` (43_hex_codec.md R102, R103) -/

/-- The verdict on a text, before `HEXEND` is presented: it is good and ended, with the bytes answered, or it has failed
or a digit is left over. -/
theorem sendAll_text_verdict {text : Text} {s u : State} {rs : List Response} (hrest : s.ParserAtRest)
    (hu : sendAll (text.map .hexch) s = .next u) (hrs : u.responses = s.responses ++ rs) :
    (parseHex text = .ok (itemBytes rs) ∧ u.ParserAtRest ∧ ∀ r ∈ rs, r.st = 0) ∨
    (parseHex text = .error .malformedHexInput ∧ (u.hfail = true ∨ u.hhalf = true)) := by
  obtain ⟨hhalf, hgood⟩ := hrest
  by_cases hchars : ∀ c ∈ text, ¬ Foreign c
  · obtain ⟨u', rs', hu', hread⟩ := sendAll_text_readDigits hchars hgood
    cases hu.symm.trans hu'
    obtain rfl : rs = rs' := List.append_cancel_left (hrs.symm.trans hread.responses)
    have hchars' : ∀ c ∈ text, c = 0x20 ∨ hexVal c ≠ none := fun c hc => not_foreign_iff.mp (hchars c hc)
    have hdigits := hread.digits
    rw [pending_of_not_half hhalf, List.nil_append] at hdigits
    cases hpend : u.hhalf with
    | false =>
      rw [pending_of_not_half hpend, List.append_nil] at hdigits
      have heven : (text.filterMap hexVal).length % 2 = 0 := by
        rw [hdigits, length_flatMap_nibbles]
        exact Nat.mul_mod_right 2 _
      refine .inl ⟨?_, ⟨hpend, hread.good⟩, hread.ok⟩
      rw [parseHex_of_good hchars' heven, hdigits, pairUp_nibbles]
    | true =>
      rw [pending_of_half hpend] at hdigits
      refine .inr ⟨parseHex_of_odd ?_, .inr rfl⟩
      rw [hdigits, List.length_append, length_flatMap_nibbles, List.length_singleton]
      omega
  · have hforeign : ∃ c ∈ text, Foreign c := by simpa using hchars
    refine .inr ⟨parseHex_of_foreign fun hall => ?_, .inl (sendAll_text_fails (.inr hforeign) hu)⟩
    exact hchars fun c hc => not_foreign_iff.mpr (hall c hc)

theorem parseHexSeq_isParser (text : Text) : ∀ i ∈ parseHexSeq text, i.isParser = true := by
  intro i hi
  obtain hi | hi := List.mem_append.mp hi
  · obtain ⟨c, _, rfl⟩ := List.mem_map.mp hi
    rfl
  · rw [List.mem_singleton.mp hi]
    rfl

/-- Settles O39: `HEXEND` reports the verdict on the characters, and puts the converter at rest. -/
theorem blockParsesHexText : Obligations.BlockParsesHexText := by
  intro s text hrest
  obtain ⟨u, rs, hu, hrs, hlen⟩ := sendAll_answered (text.map .hexch) s
  obtain ⟨t, r, ht, hr⟩ := exec_answered .hexend u
  have hsend : sendAll (parseHexSeq text) s = .next t := by
    rw [parseHexSeq, sendAll_append, hu, andThen_next, sendAll_one, ht]
  refine ⟨t, rs ++ [r], hsend, by rw [hr, hrs, List.append_assoc], by simp [hlen], ?_, ?_⟩
  · obtain ⟨hparse, ⟨hhalf, hgood⟩, hok⟩ | ⟨hparse, hbad⟩ := sendAll_text_verdict hrest hu hrs
    · cases (exec_hexend_of_good hgood hhalf).symm.trans ht
      obtain rfl := eq_of_respond_responses rfl hr
      rw [hparse]
      refine ⟨fun q hq => ?_, ?_⟩
      · obtain hq | hq := List.mem_append.mp hq
        · exact hok q hq
        · rw [List.mem_singleton.mp hq]
          rfl
      · show itemBytes (rs ++ [_]) = itemBytes rs
        rw [itemBytes_append]
        exact List.append_nil _
    · cases (exec_hexend_of_bad hbad).symm.trans ht
      obtain rfl := eq_of_respond_responses rfl hr
      rw [hparse]
      exact ⟨rfl, List.getLast?_concat⟩
  · obtain ⟨hhalf, hfail⟩ := hexend_rests ht
    have hframe := sendAll_parser_frame (parseHexSeq_isParser text) hsend
    rwa [hhalf.trans hrest.1.symm, hfail.trans hrest.2.symm] at hframe

end Sys2Proof.Machine
end

section
/-! PROOF. The host procedures (spec 44_host_procedures.md R121 to R125): ingesting and loading a row, `Dispatch`, and
`ComputeChecksum` as a pure function and on the block. -/

namespace Sys2Proof.Machine

open Sys2Proof

/-! ## Ingesting a row (44_host_procedures.md R122) -/

theorem ingestRow_eq_ok_iff (row : Row) : ingestRow row = .ok row ↔
    (row.width = 8 ∨ row.width = 16 ∨ row.width = 32) ∧
      row.poly < 2 ^ row.width ∧ row.init < 2 ^ row.width ∧ row.xorOut < 2 ^ row.width := by
  rw [← exists_wellFormedWidth_iff]
  obtain ⟨w, hw, hi⟩ | ⟨hw, hi⟩ := ingestRow_cases row
  · exact iff_of_true hi ⟨w, hw⟩
  · rw [hi, hw]
    exact iff_of_false nofun nofun

theorem ingestRow_total (row : Row) : ingestRow row = .ok row ∨ ingestRow row = .error .invalidSpec := by
  obtain ⟨_, _, hi⟩ | ⟨_, hi⟩ := ingestRow_cases row
  · exact .inl hi
  · exact .inr hi

theorem ingestRow_eq_error_iff (row : Row) : ingestRow row = .error .invalidSpec ↔
    wellFormedWidth row.width row.poly row.init row.xorOut = none := by
  obtain ⟨w, hw, hi⟩ | ⟨hw, hi⟩ := ingestRow_cases row
  · rw [hi, hw]
    exact iff_of_false nofun nofun
  · exact iff_of_true hi hw

/-- The table formed from some rows is the accepted ones among them. -/
theorem formTable_eq_accepted (rows : List Row) : formTable rows = rows.filter fun row => (ingestRow row).isOk := by
  rw [formTable_eq_filter]
  refine List.filter_congr fun row _ => ?_
  obtain ⟨w, hw, hi⟩ | ⟨hw, hi⟩ := ingestRow_cases row <;> rw [hw, hi] <;> rfl

theorem formTable_ingested (rows : List Row) : TableIngested (formTable rows) := by
  intro row hrow
  rw [formTable_eq_accepted, List.mem_filter] at hrow
  obtain hi | hi := ingestRow_total row
  · exact hi
  · rw [hi] at hrow
    exact absurd hrow.2 nofun

theorem formTable_without_rejected (before after : List Row) {row : Row} (h : ingestRow row = .error .invalidSpec) :
    formTable (before ++ row :: after) = formTable (before ++ after) := by
  have hrejected : (ingestRow row).isOk = false := congrArg Except.isOk h
  simp only [formTable_eq_accepted, List.filter_append, List.filter_cons, hrejected]
  rfl

/-! ## The spec a row describes (44_host_procedures.md R122, R123) -/

theorem specOfRow_of_illFormed {row : Row} (h : wellFormedWidth row.width row.poly row.init row.xorOut = none) :
    specOfRow row = .error .invalidSpec := by
  simp only [specOfRow, h]

theorem specOfRow_of_asymmetric {row : Row} {w : Width}
    (h : wellFormedWidth row.width row.poly row.init row.xorOut = some w) (hflags : row.refIn ≠ row.refOut) :
    specOfRow row = .error .unsupportedSpec := by
  simp [specOfRow, h, supported, hflags]

/-- The spec of a row of width `w`. -/
def specAt (w : Width) (row : Row) : Spec where
  w := w
  poly := BitVec.ofNat 32 row.poly
  init := BitVec.ofNat 32 row.init
  refIn := row.refIn
  xorOut := BitVec.ofNat 32 row.xorOut

theorem specOfRow_of_symmetric {row : Row} {w : Width}
    (h : wellFormedWidth row.width row.poly row.init row.xorOut = some w) (hflags : row.refIn = row.refOut) :
    specOfRow row = .ok (specAt w row) := by
  simp [specOfRow, h, supported, hflags, specAt]

/-- What `specOfRow` can do. -/
theorem specOfRow_cases (row : Row) :
    (wellFormedWidth row.width row.poly row.init row.xorOut = none ∧ specOfRow row = .error .invalidSpec) ∨
    (∃ w, wellFormedWidth row.width row.poly row.init row.xorOut = some w ∧ row.refIn ≠ row.refOut ∧
      specOfRow row = .error .unsupportedSpec) ∨
    (∃ w, wellFormedWidth row.width row.poly row.init row.xorOut = some w ∧ row.refIn = row.refOut ∧
      specOfRow row = .ok (specAt w row)) := by
  cases hw : wellFormedWidth row.width row.poly row.init row.xorOut with
  | none => exact .inl ⟨rfl, specOfRow_of_illFormed hw⟩
  | some w =>
    by_cases hflags : row.refIn = row.refOut
    · exact .inr (.inr ⟨w, rfl, hflags, specOfRow_of_symmetric hw hflags⟩)
    · exact .inr (.inl ⟨w, rfl, hflags, specOfRow_of_asymmetric hw hflags⟩)

/-- A number that fits a width is not truncated when it is held as a word. -/
theorem toNat_word {w : Width} {n : Nat} (h : n < 2 ^ w.bits) : (BitVec.ofNat 32 n).toNat = n := by
  rw [BitVec.toNat_ofNat, Nat.mod_eq_of_lt (h.trans_le (Nat.pow_le_pow_right (by decide) w.bits_le))]

/-- The values of a well-formed row are those of its spec. -/
theorem specAt_fits {row : Row} {w : Width} (h : wellFormedWidth row.width row.poly row.init row.xorOut = some w) :
    Fits (specAt w row) := by
  obtain ⟨_, hpoly, hinit, hxor⟩ := wellFormedWidth_eq_some.mp h
  exact ⟨(toNat_word hpoly).trans_lt hpoly, (toNat_word hinit).trans_lt hinit, (toNat_word hxor).trans_lt hxor⟩

/-! ## Reading responses -/

/-- What the host has after a sequence of commands whose responses are `rs`. -/
theorem exchange_of_sendAll {is : List Instr} {s t : State} {rs : List Response} (h : sendAll is s = .next t)
    (hrs : t.responses = s.responses ++ rs) : exchange (is.map encode) s = .next (rs, t) := by
  have hsend : sendWords (is.map encode) s = .next t := h
  rw [exchange, hsend, andThen_next, newResponses_of_append hrs]

/-- A last response of success gives its data. -/
theorem verdict_ok (rs : List Response) (n : BitVec 4) (data : RspData) :
    verdict (rs ++ [⟨okCode, n, data⟩]) = .ok data := by
  rw [verdict, List.getLast?_concat]
  rfl

/-- A last response of failure gives the error its code names. -/
theorem verdict_error (rs : List Response) (e : ErrorKind) (n : BitVec 4) (data : RspData) :
    verdict (rs ++ [⟨errorCode e, n, data⟩]) = .error e := by
  rw [verdict, List.getLast?_concat]
  cases e <;> rfl

/-! ## Loading a row (44_host_procedures.md R122, 40_spec_load.md R66) -/

/-- From `s` to `t` the host has left no computation open and has not touched the parser or the inputs. -/
structure HostFrame (s t : State) : Prop where
  idle : t.run = false
  hhalf : t.hhalf = s.hhalf
  hfail : t.hfail = s.hfail
  port : t.port = s.port
  inReset : t.inReset = s.inReset

theorem HostFrame.trans {s t u : State} (h : HostFrame s t) (h' : HostFrame t u) : HostFrame s u :=
  ⟨h'.idle, h'.hhalf.trans h.hhalf, h'.hfail.trans h.hfail, h'.port.trans h.port, h'.inReset.trans h.inReset⟩

/-- The numbers of a row fit the command fields (70_reset_and_hazards.md R177). -/
def FitsPort (row : Row) : Prop := row.width < 2 ^ 8 ∧ row.poly < 2 ^ 32 ∧ row.init < 2 ^ 32 ∧ row.xorOut < 2 ^ 32

theorem fitsPort_of_wellFormed {row : Row} {w : Width}
    (h : wellFormedWidth row.width row.poly row.init row.xorOut = some w) : FitsPort row := by
  obtain ⟨hwidth, hpoly, hinit, hxor⟩ := wellFormedWidth_eq_some.mp h
  have hword : 2 ^ w.bits ≤ 2 ^ 32 := Nat.pow_le_pow_right (by decide) w.bits_le
  exact ⟨hwidth ▸ w.bits_le.trans_lt (by decide), hpoly.trans_le hword, hinit.trans_le hword, hxor.trans_le hword⟩

/-- The state after the host has staged a row. -/
def stagedRow (row : Row) (s : State) : State :=
  s.withRow (BitVec.ofNat 8 row.width) (BitVec.ofNat 32 row.poly) (BitVec.ofNat 32 row.init) row.refIn row.refOut
    (BitVec.ofNat 32 row.xorOut)

/-- A row that fits the port is staged as it is. -/
theorem stagedWidth_stagedRow {row : Row} (h : FitsPort row) (s : State) :
    stagedWidth (stagedRow row s) = wellFormedWidth row.width row.poly row.init row.xorOut := by
  obtain ⟨hwidth, hpoly, hinit, hxor⟩ := h
  rw [stagedRow, stagedWidth_withRow, BitVec.toNat_ofNat, BitVec.toNat_ofNat, BitVec.toNat_ofNat, BitVec.toNat_ofNat,
    Nat.mod_eq_of_lt hwidth, Nat.mod_eq_of_lt hpoly, Nat.mod_eq_of_lt hinit, Nat.mod_eq_of_lt hxor]

/-- What the host has after presenting a row, by the response to `LDSPEC`. -/
theorem exchange_loadSpecSeq {row : Row} {s u : State} {st : BitVec 8} (hu : u.responses = (stagedRow row s).responses)
    (hexec : execLdspec (stagedRow row s) = .next (respond st 0 0 u)) :
    exchange
        ((loadSpecSeq (BitVec.ofNat 8 row.width) (BitVec.ofNat 32 row.poly) (BitVec.ofNat 32 row.init) row.refIn
          row.refOut (BitVec.ofNat 32 row.xorOut)).map encode) s =
      .next ([okResponse, okResponse, okResponse, okResponse] ++ [⟨st, 0, 0⟩], respond st 0 0 u) := by
  refine exchange_of_sendAll ((sendAll_loadSpecSeq ..).trans hexec) ?_
  rw [respond_responses, hu]
  simp [stagedRow, State.withRow]

theorem loadRowOnBlock_of_error {row : Row} {s : State} {e : ErrorKind} (hfits : FitsPort row)
    (hexec : execLdspec (stagedRow row s) = raise e (stagedRow row s)) :
    loadRowOnBlock row s = .next (.error e, respond (errorCode e) 0 0 (stagedRow row s)) := by
  refine (if_pos hfits).trans ?_
  rw [exchange_loadSpecSeq rfl hexec, andThen_next]
  simp only [verdict_error]

theorem loadRowOnBlock_of_ok {row : Row} {s u : State} (hfits : FitsPort row)
    (hu : u.responses = (stagedRow row s).responses) (hexec : execLdspec (stagedRow row s) = answer 0 0 u) :
    loadRowOnBlock row s = .next (.ok (), respond okCode 0 0 u) := by
  refine (if_pos hfits).trans ?_
  rw [exchange_loadSpecSeq hu hexec, andThen_next]
  simp only [verdict_ok]

/-- The row is the active spec of the block, as `LDSPEC` loads it. -/
structure RowLoaded (w : Width) (row : Row) (t : State) : Prop where
  specv : t.specv = true
  spec : t.activeSpec = specAt w row
  refOut : t.refOut = row.refOut
  rpoly : t.rpoly = reflect t.poly t.w

/-- What loading a row on a block with no open computation can do. -/
theorem loadRowOnBlock_cases (row : Row) {s : State} (hidle : s.run = false) :
    ∃ t,
      ((wellFormedWidth row.width row.poly row.init row.xorOut = none ∧
          loadRowOnBlock row s = .next (.error .invalidSpec, t)) ∨
        (∃ w, wellFormedWidth row.width row.poly row.init row.xorOut = some w ∧ row.refIn ≠ row.refOut ∧
          loadRowOnBlock row s = .next (.error .unsupportedSpec, t)) ∨
        (∃ w, wellFormedWidth row.width row.poly row.init row.xorOut = some w ∧ row.refIn = row.refOut ∧
          loadRowOnBlock row s = .next (.ok (), t) ∧ RowLoaded w row t)) ∧
      HostFrame s t := by
  have hidle' : (stagedRow row s).run = false := hidle
  have hin : rowRefIn (stagedRow row s).rowCtrl = row.refIn := ctlBits_refIn ..
  have hout : rowRefOut (stagedRow row s).rowCtrl = row.refOut := ctlBits_refOut ..
  cases hrow : wellFormedWidth row.width row.poly row.init row.xorOut with
  | none =>
    by_cases hfits : FitsPort row
    · have hexec := execLdspec_of_illFormed hidle' ((stagedWidth_stagedRow hfits s).trans hrow)
      exact ⟨_, .inl ⟨rfl, loadRowOnBlock_of_error hfits hexec⟩, hidle, rfl, rfl, rfl, rfl⟩
    · exact ⟨s, .inl ⟨rfl, if_neg hfits⟩, hidle, rfl, rfl, rfl, rfl⟩
  | some w =>
    have hfits := fitsPort_of_wellFormed hrow
    have hexec := execLdspec_of_wellFormed hidle' ((stagedWidth_stagedRow hfits s).trans hrow)
    rw [hin, hout] at hexec
    by_cases hflags : row.refIn = row.refOut
    · rw [if_pos hflags] at hexec
      have hload := loadRowOnBlock_of_ok (u := commitRow w (stagedRow row s)) hfits rfl hexec
      refine ⟨_, .inr (.inr ⟨w, rfl, hflags, hload, rfl, ?_, hout, rfl⟩), hidle, rfl, rfl, rfl, rfl⟩
      rw [specAt, ← hin]
      rfl
    · rw [if_neg hflags] at hexec
      exact ⟨_, .inr (.inl ⟨w, rfl, hflags, loadRowOnBlock_of_error hfits hexec⟩), hidle, rfl, rfl, rfl, rfl⟩

/-- The registers of the active spec hold the numbers of a loaded row. -/
theorem RowLoaded.registers {w : Width} {row : Row} {t : State} (h : RowLoaded w row t)
    (hrow : wellFormedWidth row.width row.poly row.init row.xorOut = some w) :
    t.specv = true ∧ t.w.bits = row.width ∧ t.poly.toNat = row.poly ∧ t.init.toNat = row.init ∧
      t.xorOut.toNat = row.xorOut ∧ t.refIn = row.refIn ∧ t.refOut = row.refOut := by
  obtain ⟨hwidth, hpoly, hinit, hxor⟩ := wellFormedWidth_eq_some.mp hrow
  obtain ⟨hspecv, hspec, hout, _⟩ := h
  obtain ⟨hw, hp, hi, hin, hx⟩ := Spec.mk.inj hspec
  rw [hw, hp, hi, hin, hx]
  exact ⟨hspecv, hwidth.symm, toNat_word hpoly, toNat_word hinit, toNat_word hxor, rfl, hout⟩

/-- Settles O56: `IngestRow` and `LDSPEC` make the same check of the numbers, and the table is the filter of the supplied
rows by it. -/
theorem loadingARowAgreesWithIngestion : Obligations.LoadingARowAgreesWithIngestion := by
  refine ⟨fun row => ⟨ingestRow_eq_ok_iff row, ingestRow_total row⟩, fun row s hidle => ?_, fun table row => ⟨?_, ?_⟩,
    fun rows => ⟨formTable_ingested rows, ?_, fun row hmem hrow => ?_, formTable_eq_accepted rows⟩,
    fun before after row => formTable_without_rejected before after⟩
  · rw [ingestRow_eq_error_iff]
    obtain ⟨t, hload, hframe⟩ := loadRowOnBlock_cases row hidle
    obtain ⟨hrow, ht⟩ | ⟨w, hrow, hflags, ht⟩ | ⟨w, hrow, hflags, ht, hloaded⟩ := hload
    · have hrefused : ingestRow row ≠ .ok row := by
        rw [(ingestRow_eq_error_iff row).mpr hrow]
        exact nofun
      exact ⟨_, t, ht, iff_of_true rfl hrow, fun h => absurd h hrefused, fun h => absurd h hrefused, hframe.idle,
        hframe.hhalf, hframe.hfail⟩
    · exact ⟨_, t, ht, iff_of_false nofun (by simp [hrow]), fun _ _ => rfl, fun _ h => absurd h hflags, hframe.idle,
        hframe.hhalf, hframe.hfail⟩
    · exact ⟨_, t, ht, iff_of_false nofun (by simp [hrow]), fun _ h => absurd hflags h,
        fun _ _ => ⟨rfl, hloaded.registers hrow⟩, hframe.idle, hframe.hhalf, hframe.hfail⟩
  · intro h
    simp only [admitRow, h]
  · intro h
    simp only [admitRow, h]
  · rw [formTable_eq_accepted]
    exact List.filter_sublist
  · rw [formTable_eq_accepted, List.mem_filter]
    exact ⟨hmem, congrArg Except.isOk hrow⟩

/-! ## `Dispatch` (44_host_procedures.md R123) -/

theorem lookUp_eq_none_iff {table : Table} {name : Text} {wc : Width} :
    lookUp table name wc = none ↔ ∀ row ∈ table, ¬ (row.name = name ∧ row.width = wc.bits) := by
  simp [lookUp]

/-- The first row with the name and the width, behind rows that have not both. -/
theorem lookUp_eq_some {before after : Table} {row : Row} {name : Text} {wc : Width}
    (hbefore : ∀ r ∈ before, ¬ (r.name = name ∧ r.width = wc.bits)) (hname : row.name = name)
    (hwidth : row.width = wc.bits) : lookUp (before ++ row :: after) name wc = some row := by
  have hnone := lookUp_eq_none_iff.mpr hbefore
  rw [lookUp] at hnone
  rw [lookUp, List.find?_append, hnone, List.find?_cons]
  simp [hname, hwidth]

theorem width_of_lookUp {table : Table} {name : Text} {wc : Width} {row : Row} (h : lookUp table name wc = some row) :
    row.width = wc.bits := by
  have hrow := List.find?_some h
  simp only [Bool.and_eq_true, beq_iff_eq] at hrow
  exact hrow.2

/-- The spec of a row: its width is the row's, and its values fit. -/
theorem specOfRow_ok {row : Row} {sp : Spec} (h : specOfRow row = .ok sp) : row.width = sp.w.bits ∧ Fits sp := by
  obtain ⟨_, hspec⟩ | ⟨_, _, _, hspec⟩ | ⟨w, hrow, _, hspec⟩ := specOfRow_cases row
  · cases hspec.symm.trans h
  · cases hspec.symm.trans h
  · cases hspec.symm.trans h
    obtain ⟨hwidth, _⟩ := wellFormedWidth_eq_some.mp hrow
    exact ⟨hwidth, specAt_fits hrow⟩

theorem bits_injective {w w' : Width} (h : w.bits = w'.bits) : w = w' := by
  have hw := widthOfBits_eq_some.mpr h
  rw [widthOfBits_eq_some.mpr rfl] at hw
  exact Option.some.inj hw

theorem dispatch_of_none {table : Table} {name : Text} {wc : Width} (h : lookUp table name wc = none)
    (data : List Byte) : dispatch table name wc data = .error .unknownAlgorithm := by
  simp only [dispatch, h]

theorem dispatch_of_error {table : Table} {name : Text} {wc : Width} {row : Row} {e : ErrorKind}
    (h : lookUp table name wc = some row) (hspec : specOfRow row = .error e) (data : List Byte) :
    dispatch table name wc data = .error e := by
  simp only [dispatch, h, hspec]

theorem dispatch_of_ok {table : Table} {name : Text} {wc : Width} {row : Row} {sp : Spec}
    (h : lookUp table name wc = some row) (hspec : specOfRow row = .ok sp) (data : List Byte) :
    dispatch table name wc data = .ok (compute sp data) := by
  simp only [dispatch, h, hspec]

/-- With an unknown name no command is sent (R123). -/
theorem dispatchOnBlock_of_none {table : Table} {name : Text} {wc : Width} (h : lookUp table name wc = none)
    (data : List Byte) (s : State) :
    dispatchOnBlock table name wc data s = .next (.error .unknownAlgorithm, s) := by
  simp only [dispatchOnBlock, h]

/-- Settles O57: the table is searched for its first row with the name and the width. -/
theorem dispatchUsesTheFirstMatchingRow : Obligations.DispatchUsesTheFirstMatchingRow := by
  intro table name wc data
  refine ⟨fun hnone => ?_, ?_⟩
  · have hlook := lookUp_eq_none_iff.mpr hnone
    exact ⟨dispatch_of_none hlook data, dispatchOnBlock_of_none hlook data⟩
  · rintro before after row sp rfl hbefore hname hwidth hspec
    obtain ⟨hsp, _⟩ := specOfRow_ok hspec
    exact ⟨dispatch_of_ok (lookUp_eq_some hbefore hname hwidth) hspec data, bits_injective (hsp.symm.trans hwidth)⟩

/-- The checksum of a spec fits its width (R90). -/
theorem compute_fits {sp : Spec} (h : Fits sp) (data : List Byte) : (compute sp data).toNat < 2 ^ sp.w.bits :=
  xor_fits (absorbAll_fits h.poly h.init data) h.xorOut

/-- The answer of `Dispatch` fits the width that was asked for. -/
theorem dispatch_fits {table : Table} {name : Text} {wc : Width} {data : List Byte} {c : Word}
    (h : dispatch table name wc data = .ok c) : c.toNat < 2 ^ wc.bits := by
  cases hlook : lookUp table name wc with
  | none => cases (dispatch_of_none hlook data).symm.trans h
  | some row =>
    cases hspec : specOfRow row with
    | error e => cases (dispatch_of_error hlook hspec data).symm.trans h
    | ok sp =>
      cases (dispatch_of_ok hlook hspec data).symm.trans h
      obtain ⟨hwidth, hfits⟩ := specOfRow_ok hspec
      rw [← bits_injective (hwidth.symm.trans (width_of_lookUp hlook))]
      exact compute_fits hfits data

/-- `Compute` on a block with a loaded spec (R88). -/
theorem computeOnBlock_of_loaded {s : State} (hloaded : s.specv = true) (hrpoly : s.rpoly = reflect s.poly s.w)
    (data : List Byte) :
    computeOnBlock data s = .next (.ok (compute s.activeSpec data), s.computed data) := by
  have hdata : (zext64 (compute s.activeSpec data)).setWidth 32 = compute s.activeSpec data :=
    BitVec.setWidth_setWidth_of_le _ (by decide) |>.trans (BitVec.setWidth_eq _)
  have hverdict := verdict_ok (List.replicate (data.length + 1) okResponse) (BitVec.ofNat 4 s.w.bytes)
    (zext64 (compute s.activeSpec data))
  rw [okCode] at hverdict
  rw [computeOnBlock, exchange_of_sendAll (sendAll_computeSeq hloaded hrpoly data) rfl, andThen_next]
  simp only [hverdict, hdata]

/-- `Dispatch` on a block with no open computation answers what the pure function answers (R123). -/
theorem dispatchOnBlock_eq (table : Table) (name : Text) (wc : Width) (data : List Byte) {s : State}
    (hidle : s.run = false) :
    ∃ t, dispatchOnBlock table name wc data s = .next (dispatch table name wc data, t) ∧ HostFrame s t := by
  cases hlook : lookUp table name wc with
  | none =>
    rw [dispatch_of_none hlook]
    exact ⟨s, dispatchOnBlock_of_none hlook data s, hidle, rfl, rfl, rfl, rfl⟩
  | some row =>
    obtain ⟨t, hload, hframe⟩ := loadRowOnBlock_cases row hidle
    obtain ⟨hrow, ht⟩ | ⟨w, hrow, hflags, ht⟩ | ⟨w, hrow, hflags, ht, hloaded⟩ := hload
    · rw [dispatch_of_error hlook (specOfRow_of_illFormed hrow)]
      exact ⟨t, by simp only [dispatchOnBlock, hlook, ht, andThen_next], hframe⟩
    · rw [dispatch_of_error hlook (specOfRow_of_asymmetric hrow hflags)]
      exact ⟨t, by simp only [dispatchOnBlock, hlook, ht, andThen_next], hframe⟩
    · have hcompute := computeOnBlock_of_loaded hloaded.specv hloaded.rpoly data
      rw [dispatch_of_ok hlook (specOfRow_of_symmetric hrow hflags), ← hloaded.spec]
      refine ⟨t.computed data, ?_, hframe.trans ⟨rfl, rfl, rfl, rfl, rfl⟩⟩
      simp only [dispatchOnBlock, hlook, ht, andThen_next, hcompute]

/-! ## `ComputeChecksum` (44_host_procedures.md R125) -/

theorem parseHex_error {text : Text} {e : ErrorKind} (h : parseHex text = .error e) : e = .malformedHexInput := by
  unfold parseHex at h
  split at h
  · split at h
    · cases h
    · exact (Except.error.inj h).symm
  · exact (Except.error.inj h).symm

theorem computeChecksum_of_malformed {text : Text} {e : ErrorKind} (h : parseHex text = .error e) (table : Table)
    (name : Text) (wc : Width) (le : Bool) : computeChecksum table name wc text le = .error e := by
  simp only [computeChecksum, h]

theorem computeChecksum_of_error {table : Table} {name : Text} {wc : Width} {text : Text} {bytes : List Byte}
    {e : ErrorKind} (h : parseHex text = .ok bytes) (hd : dispatch table name wc bytes = .error e) (le : Bool) :
    computeChecksum table name wc text le = .error e := by
  simp only [computeChecksum, h, hd]

theorem computeChecksum_of_ok {table : Table} {name : Text} {wc : Width} {text : Text} {bytes : List Byte} {c : Word}
    (h : parseHex text = .ok bytes) (hd : dispatch table name wc bytes = .ok c) (le : Bool) :
    computeChecksum table name wc text le = .ok (formatHex c wc le) := by
  simp only [computeChecksum, h, hd]

/-- Settles O60: the stages in order, and the only error of the first is `MalformedHexInput`. -/
theorem checksumStagesRunInOrder : Obligations.ChecksumStagesRunInOrder := by
  intro table name wc text le
  refine ⟨fun e he => ?_, fun bytes hparse hlook => ?_, fun bytes c hparse hd => computeChecksum_of_ok hparse hd le⟩
  · rw [← parseHex_error he]
    exact computeChecksum_of_malformed he table name wc le
  · exact computeChecksum_of_error hparse (dispatch_of_none hlook bytes) le

/-- `ParseHex` on a block whose converter is at rest answers what the pure function answers (R103, R125). -/
theorem parseHexOnBlock_eq (text : Text) {s : State} (hrest : s.ParserAtRest) :
    ∃ t, parseHexOnBlock text s = .next (parseHex text, t) ∧
      t = { s with hnib := t.hnib, responses := t.responses } := by
  obtain ⟨t, rs, hsend, hrs, _, hverdict, hframe⟩ := blockParsesHexText s text hrest
  refine ⟨t, ?_, hframe⟩
  rw [parseHexOnBlock, exchange_of_sendAll hsend hrs, andThen_next]
  cases hparse : parseHex text with
  | error e =>
    rw [hparse] at hverdict
    obtain ⟨rfl, hlast⟩ := hverdict
    have hbad : rs.all (fun r => r.st == okCode) = false := by
      rw [List.all_eq_false]
      exact ⟨_, List.mem_of_getLast? hlast, by decide⟩
    simp only [hbad]
    rfl
  | ok bytes =>
    rw [hparse] at hverdict
    obtain ⟨hok, hbytes⟩ := hverdict
    have hall : rs.all (fun r => r.st == okCode) = true := by
      rw [List.all_eq_true]
      intro r hr
      rw [hok r hr]
      rfl
    simp only [hall]
    rw [← hbytes]
    rfl

/-- A value that fits its size is formatted by the command of the size and the order (R45, R114). -/
theorem exec_build_fmtMnemonic {w : Width} {c : Word} (hc : c.toNat < 2 ^ w.bits) (le : Bool) (s : State) :
    exec (build (fmtMnemonic w le) c) s = answerText c w le s := by
  have hlow : (c.extractLsb' 0 w.bits).setWidth 32 = c := setWidth_extractLsb'_of_lt hc
  cases w with
  | w8 => cases le <;> exact congrArg (answerText · _ _ s) hlow
  | w16 => cases le <;> exact congrArg (answerText · _ _ s) hlow
  | w32 => cases le <;> rfl

/-- The host reads back the characters the block has packed (R39). -/
theorem items_pack {cs : List Byte} {n : Nat} (hn : n = cs.length) (h8 : n ≤ 8) : items n (pack cs) = cs := by
  subst hn
  refine List.ext_getElem (by simp [items]) fun k _ hk => ?_
  simp only [items, List.getElem_map, List.getElem_range]
  exact itemOf_pack cs k hk (hk.trans_le h8)

/-- `FMT` of a value that fits, on the block: the host has its text (R125). -/
theorem exchange_fmtSeq {w : Width} {c : Word} (hc : c.toNat < 2 ^ w.bits) (le : Bool) (s : State) :
    exchange (fmtSeq w le c) s =
      .next ([] ++ [⟨okCode, BitVec.ofNat 4 (2 * w.bytes), pack (formatHex c w le)⟩],
        respond okCode (BitVec.ofNat 4 (2 * w.bytes)) (pack (formatHex c w le)) s) := by
  rw [exchange, sendWords_fmtSeq, if_pos hc, exec_build_fmtMnemonic hc, answerText, answer, andThen_next,
    newResponses_of_append rfl]
  rfl

/-- Settles O59: each stage on the block answers what its pure function answers, and the last is given a value that
fits. -/
theorem blockComputesChecksums : Obligations.BlockComputesChecksums := by
  intro table name wc text le s hquiet
  obtain ⟨hidle, hrest⟩ := hquiet
  obtain ⟨t, hparse, ht⟩ := parseHexOnBlock_eq text hrest
  have hframe : HostFrame s t := by
    rw [ht]
    exact ⟨hidle, rfl, rfl, rfl, rfl⟩
  have hends {u : State} (hu : HostFrame s u) : u.Quiescent ∧ u.port = s.port ∧ u.inReset = s.inReset :=
    ⟨⟨hu.idle, hu.hhalf.trans hrest.1, hu.hfail.trans hrest.2⟩, hu.port, hu.inReset⟩
  rw [computeChecksumOnBlock, hparse, andThen_next]
  cases hbytes : parseHex text with
  | error e => exact ⟨t, by rw [computeChecksum_of_malformed hbytes], hends hframe⟩
  | ok bytes =>
    obtain ⟨u, hdispatch, hu⟩ := dispatchOnBlock_eq table name wc bytes hframe.idle
    have hframe' := hframe.trans hu
    simp only [hdispatch, andThen_next]
    cases hd : dispatch table name wc bytes with
    | error e => exact ⟨u, by rw [computeChecksum_of_error hbytes hd], hends hframe'⟩
    | ok c =>
      have htext : items (2 * wc.bytes) (pack (formatHex c wc le)) = formatHex c wc le :=
        items_pack (formatHex_length c wc le).symm (by cases wc <;> decide)
      simp only [exchange_fmtSeq (dispatch_fits hd), andThen_next, verdict_ok, htext, computeChecksum_of_ok hbytes hd]
      exact ⟨_, rfl, hends (hframe'.trans ⟨hframe'.idle, rfl, rfl, rfl, rfl⟩)⟩

end Sys2Proof.Machine
end
